-- ==== Sys2Proof/Word.lean ====
section
/-! DEFINITION. The widths of SymbolCipher-32 (00_scope.md R7, 10_state.md R14). Every value is an
unsigned bit vector; bit 0 is the least significant bit (R8, R9). -/

namespace Sys2Proof

/-- A 32-bit register or bus data word (`W_BUS` = 32, R7). -/
abbrev Word := BitVec 32

/-- The 8-bit operand field `ARG` of a command word, as raw bits (R66). -/
abbrev Byte := BitVec 8

/-- A symbol code: the 8 bits by which a symbol crosses the interface (`W_CODE` = 8, R7, R13). -/
abbrev Code := BitVec 8

/-- A symbol index, 0..36 for a symbol of the alphabet (`W_IDX` = 6, R7, R13). -/
abbrev Index := BitVec 6

/-- An entry of the permutation state, or one of the indices `I` and `J` (`W_S` = 5, R7). -/
abbrev Entry := BitVec 5

/-- A byte offset into the 4 KiB register window (`W_OFF` = 12, R7, R45). -/
abbrev Offset := BitVec 12

end Sys2Proof
end

