-- ==== Sys2Proof/Syntax.lean ====
section
/-! DEFINITION. The syntax of SC32: the seven commands (30_encoding.md R68), the assembler form of a
command (R71), the bus transactions a host makes (20_memory.md R45, R47, R48) and the events that move
the block (00_scope.md R11). -/

namespace Sys2Proof

/-- The commands of SC32, one constructor per row of the opcode table (R68). `NOP`, `CLR` and `SCHED`
ignore `ARG`, so they carry no operand (R67, R70). Every value of an operand is a legal encoding
(R67): a command is well formed by its type. -/
inductive Instr
  /-- `NOP`, opcode 0x0: do nothing (R101). -/
  | nop
  /-- `CLR`, opcode 0x1: start a new session (R102). -/
  | clr
  /-- `KEY`, opcode 0x2: append the key symbol of code `c` (R89). -/
  | key (c : Code)
  /-- `SCHED`, opcode 0x3: run the key schedule (R90). -/
  | sched
  /-- `MSG`, opcode 0x4: encrypt the message symbol of code `c` (R99). -/
  | msg (c : Code)
  /-- `MAP`, opcode 0x5: look up the symbol code `c` (R80). -/
  | map (c : Code)
  /-- `UNMAP`, opcode 0x6: read the symbol code of index `n` (R81). -/
  | unmap (n : Byte)
  deriving DecidableEq, Repr

/-- Why a command word is illegal (R69). -/
inductive IllegalWord
  /-- `RSVD`, bits 31..12, is not zero. -/
  | reservedBits
  /-- `RSVD` is zero and `OP` is in 0x7..0xF. -/
  | reservedOpcode
  deriving DecidableEq, Repr

/-- What the decoder answers on a word: a command, or `Illegal` with its reason (R70). -/
inductive Decoded
  /-- The word is this command. -/
  | command (i : Instr)
  /-- The word is illegal: submitting it raises `ILLEGAL_CMD`. -/
  | illegal (why : IllegalWord)
  deriving DecidableEq, Repr

/-- The mnemonics of the assembler syntax (R71). -/
inductive Mnemonic
  | nop | clr | key | sched | msg | map | unmap
  deriving DecidableEq, Repr

/-- The operand of an assembler command (R71). -/
inductive AsmOperand
  /-- No operand is written. -/
  | absent
  /-- A quoted character. -/
  | quoted (c : Char)
  /-- A number, decimal or hexadecimal. -/
  | number (n : Nat)
  deriving DecidableEq, Repr

/-- An SC32 command as an assembler reads it: a mnemonic and at most one operand (R71). -/
structure AsmCommand where
  mnemonic : Mnemonic
  operand : AsmOperand
  deriving DecidableEq, Repr

/-- The access size a bus request names in `req_size` (R45). -/
inductive AccessSize
  /-- `req_size` = 0: one byte. -/
  | byte
  /-- `req_size` = 1: two bytes. -/
  | half
  /-- `req_size` = 2: four bytes, the only legal size (R50). -/
  | word
  /-- `req_size` = 3: reserved. -/
  | reserved
  deriving DecidableEq, Repr

/-- One host bus transaction, at a byte offset from `SC_BASE` (R47, R48). It does not say which master
issued it or in which mode: SC32 treats every request alike (R57, R117). -/
inductive BusRequest
  /-- `MemRead(off, size)`. -/
  | read (off : Offset) (size : AccessSize)
  /-- `MemWrite(off, size, data)`. -/
  | write (off : Offset) (size : AccessSize) (data : Word)
  deriving DecidableEq, Repr

/-- One event that moves SC32: a host transaction, the engine's turn, or reset. Nothing else changes
its state (R11). -/
inductive Input
  /-- A bus transaction transfers. -/
  | request (r : BusRequest)
  /-- The engine's turn: an operation that is pending completes here (R129). -/
  | engine
  /-- A clock edge with `rst_n = 0` (R124). -/
  | reset
  deriving DecidableEq, Repr

end Sys2Proof
end

