-- ==== Sys2Proof/WellFormed.lean ====
section
/-! DEFINITION. The checks on syntax. An `Instr` needs none: an operand is 8 bits and every value of it
is a legal encoding (30_encoding.md R67). What can be ill formed is an assembler command (R71) and a
command word (R69). -/

namespace Sys2Proof

/-- The characters that may be quoted: the 37 symbols of the alphabet (R71, R74). -/
def symbolChar (c : Char) : Bool :=
  c == ' ' || ('a' ≤ c && c ≤ 'z') || ('0' ≤ c && c ≤ '9')

/-- The operand of `KEY`, `MSG` and `MAP`: a quoted symbol of the alphabet or a number 0..255 (R71). -/
def AsmOperand.isSymbol : AsmOperand → Bool
  | .absent => false
  | .quoted c => symbolChar c
  | .number n => n ≤ 255

/-- The operand of `UNMAP`: a number 0..255 (R71). -/
def AsmOperand.isNumber : AsmOperand → Bool
  | .absent => false
  | .quoted _ => false
  | .number n => n ≤ 255

/-- An assembler command is well formed: `NOP`, `CLR` and `SCHED` take no operand, `KEY`, `MSG` and
`MAP` a symbol operand, `UNMAP` a number (R71). -/
def AsmCommand.wf (a : AsmCommand) : Bool :=
  match a.mnemonic with
  | .nop => a.operand == .absent
  | .clr => a.operand == .absent
  | .sched => a.operand == .absent
  | .key => a.operand.isSymbol
  | .msg => a.operand.isSymbol
  | .map => a.operand.isSymbol
  | .unmap => a.operand.isNumber

/-- A command word is well formed: its reserved bits 31..12 are zero and its opcode, bits 11..8, is
one of 0x0..0x6 (R69). -/
def wordWf (w : Word) : Bool :=
  w.toNat / 4096 == 0 && w.toNat / 256 % 16 ≤ 6

end Sys2Proof
end

