-- ==== Sys2Proof/Decode.lean ====
section
/-! DEFINITION. The one format `CMD32`, its decoder, total on all 2^32 words, and its encoder and
assembler (30_encoding.md R65-R71). -/

namespace Sys2Proof

/-- `RSVD`, bits 31..12 (R66). -/
def rsvdField (w : Word) : BitVec 20 := w.extractLsb' 12 20

/-- `OP`, bits 11..8 (R66). -/
def opField (w : Word) : BitVec 4 := w.extractLsb' 8 4

/-- `ARG`, bits 7..0, unsigned (R66, R67). -/
def argField (w : Word) : Byte := w.extractLsb' 0 8

/-- The decoder of R70: nonzero reserved bits are illegal whatever the opcode; opcodes 0x7..0xF are
illegal; `ARG` of `NOP`, `CLR` and `SCHED` is ignored. -/
def decode (w : Word) : Decoded :=
  if rsvdField w ≠ 0#20 then .illegal .reservedBits
  else
    match (opField w).toNat with
    | 0x0 => .command .nop
    | 0x1 => .command .clr
    | 0x2 => .command (.key (argField w))
    | 0x3 => .command .sched
    | 0x4 => .command (.msg (argField w))
    | 0x5 => .command (.map (argField w))
    | 0x6 => .command (.unmap (argField w))
    | _ => .illegal .reservedOpcode

/-- The opcode of a command (R68). -/
def opcode : Instr → BitVec 4
  | .nop => 0x0
  | .clr => 0x1
  | .key _ => 0x2
  | .sched => 0x3
  | .msg _ => 0x4
  | .map _ => 0x5
  | .unmap _ => 0x6

/-- The operand a command is assembled with; 0 for a command without one (R67, R71). -/
def operand : Instr → Byte
  | .nop => 0
  | .clr => 0
  | .key c => c
  | .sched => 0
  | .msg c => c
  | .map c => c
  | .unmap n => n

/-- The canonical word of a command: 20 zero bits, `OP`, `ARG` (R66, R71). -/
def encode (i : Instr) : Word := (0#20 ++ opcode i) ++ operand i

/-- The 8 bits an assembler operand stands for: a quoted character's ASCII code, or the number (R71,
R75). -/
def asmOperandBits : AsmOperand → Byte
  | .absent => 0
  | .quoted c => BitVec.ofNat 8 c.toNat
  | .number n => BitVec.ofNat 8 n

/-- The command an assembler command names (R71). -/
def asmInstr (a : AsmCommand) : Instr :=
  match a.mnemonic with
  | .nop => .nop
  | .clr => .clr
  | .key => .key (asmOperandBits a.operand)
  | .sched => .sched
  | .msg => .msg (asmOperandBits a.operand)
  | .map => .map (asmOperandBits a.operand)
  | .unmap => .unmap (asmOperandBits a.operand)

/-- The assembler: the word of a well-formed assembler command, nothing for an ill-formed one (R71). -/
def assemble (a : AsmCommand) : Option Word :=
  if a.wf then some (encode (asmInstr a)) else none

/-- The command the decoder reads from a word given as a number, its bits numbered as the opcode table
numbers them. A command is one 32-bit write (R65), so the first `nbits` bits of `w` are laid out as one
word. -/
def decodeTableWord (nbits w : Nat) : Option Instr :=
  match decode (BitVec.ofNat 32 (w % 2 ^ nbits)) with
  | .command i => some i
  | .illegal _ => none

end Sys2Proof
end

