-- ==== Sys2Proof/Config.lean ====
section
/-! DEFINITION. What an implementation or the platform fixes, and the free values: the constants here
that are `opaque` have no body, so no proof can rest on what they are. -/

namespace Sys2Proof.Config

/-- The parameter `PRGA_J_SEED` (00_scope.md R7, 92_eei_decisions.md D10, 93_implementation_defined.md
U4): the value `J` takes when `SCHED` ends. The value SC32 fixes, `zero`, is
`Sys2Proof.Machine.prgaJSeed`. -/
inductive PrgaJSeed
  /-- `Zero`: `J` restarts at 0 (SC32's value). -/
  | zero
  /-- `KsaFinal`: `J` keeps the final accumulator of the key schedule (the named alternative). -/
  | ksaFinal
  deriving DecidableEq, Repr

/-- The 4 KiB page the platform places the register window in. The spec leaves `SC_BASE` OPEN and
asks only that it be a multiple of 4096 (R7, R46, D2), so it is a page number without a value. -/
opaque scPage : Nat

/-- `SC_BASE`, the base address of the register window: any multiple of 4096 (R46). -/
def scBase : Nat := 4096 * scPage

/-- FREE VALUE (log entry 3). The bits an unspecified register field shows when it is read while
`BUSY = 1` (10_state.md R43, 70_reset_and_hazards.md R131, 93_implementation_defined.md I1). Applied
to the model's draw counter, so every such read is a draw of its own. -/
opaque busyRead : Nat → Word

end Sys2Proof.Config
end

