-- ==== Sys2Proof/Machine/State.lean ====
section
/-! DEFINITION. The architectural state of SC32 (10_state.md R14), the bus side the model adds to it,
and the state after reset (R44, 70_reset_and_hazards.md R125). -/

namespace Sys2Proof.Machine

/-- The phase of a session, `STATUS.PHASE` (R24). -/
inductive Phase
  /-- 0: key symbols may be loaded and the schedule run. -/
  | keyload
  /-- 1: message symbols may be processed. -/
  | stream
  deriving DecidableEq, Repr

/-- The error codes of `STATUS.ERRCODE` (60_exceptions.md R106). Codes 7..15 are never produced, so
the latch ranges over these seven (93_implementation_defined.md I6). -/
inductive ErrCode
  /-- Code 0: no error is latched. -/
  | none
  /-- Code 1: `KEY` with a code the alphabet does not hold. -/
  | invalidKeySymbol
  /-- Code 2: `MSG` with a code the alphabet does not hold. -/
  | invalidMsgSymbol
  /-- Code 3: `SCHED` with `KLEN = 0`. -/
  | emptyKey
  /-- Code 4: `KEY` or `SCHED` in `STREAM`, or `MSG` in `KEYLOAD`. -/
  | sequence
  /-- Code 5: reserved bits set, or an opcode in 0x7..0xF. -/
  | illegalCmd
  /-- Code 6: a `CMD` write while `BUSY = 1`. -/
  | overrun
  deriving DecidableEq, Repr

/-- The permutation state: 32 entries of 5 bits (R18). -/
abbrev Perm := Vector Entry 32

/-- The key buffer: 32 entries of 6 bits (R22). -/
abbrev KeyBuf := Vector Index 32

/-- The identity permutation, the value of `S` after reset (R18). -/
def identityPerm : Perm := Vector.ofFn fun n : Fin 32 => BitVec.ofNat 5 n

/-- The registers an operation may write: everything of R14 but the latch, `BUSY` and `PENDING`. An
operation's effect is a value of this type (60_exceptions.md R109). -/
structure Regs where
  /-- The permutation state (R18). -/
  S : Perm
  /-- The PRGA index `i` (R20). -/
  I : Entry
  /-- The index `j` (R21). -/
  J : Entry
  /-- The key buffer (R22). -/
  KEY : KeyBuf
  /-- How many key entries are held, 0..32 (R23). -/
  KLEN : BitVec 6
  /-- The phase (R24). -/
  PHASE : Phase
  /-- The result of the latest `MSG` (R29), laid out as R36 says. -/
  OUT : Word
  /-- The result of the latest `MAP` or `UNMAP` (R30), laid out as R37 says. -/
  RESULT : Word
  /-- How many `MSG` operations have completed since `CLR` or reset, modulo 2^32 (R31). -/
  MCOUNT : Word
  deriving DecidableEq, Repr

/-- An accepted operation that has not completed, with the registers it will produce, computed at
acceptance (R26, R109). -/
structure Pending where
  /-- The accepted command. -/
  op : Instr
  /-- What its completion writes. -/
  after : Regs
  deriving DecidableEq, Repr

/-- A bus response (20_memory.md R45): `rsp_rdata`, 0 for a write and for an error response, and
`rsp_err`. -/
structure Response where
  rdata : Word
  err : Bool
  deriving DecidableEq, Repr

/-- The state of the machine. The registers of R14 come first; `inputs`, `response` and `draws` are the
model's own (log entries 1, 2 and 3). -/
structure State extends Regs where
  /-- An accepted operation is in progress (R25). -/
  BUSY : Bool
  /-- The error latch (R27). -/
  ERR : Bool
  /-- The code of the first latched error (R27). -/
  ERRCODE : ErrCode
  /-- The accepted operation not yet complete, or none (R26). -/
  PENDING : Option Pending
  /-- The model's own: the events to come, oldest first. Their order is the interleaving of host,
  engine and reset, which the spec leaves free (log entry 1). -/
  inputs : List Input
  /-- The model's own: the response to the request that transferred last, until the next step (log
  entry 2). -/
  response : Option Response
  /-- The model's own: how many unspecified reads have been drawn (log entry 3). -/
  draws : Nat
  deriving DecidableEq, Repr

/-- Why the machine stops with a fault. There is NO constructor: SC32 has no trap (60_exceptions.md
R113), an error is latched in `ERR` and an illegal access is answered on the bus (R112), and the
machine goes on after both. So no fault can be raised, which is safe. -/
inductive Fault
  deriving DecidableEq, Repr

/-- Why a command is refused. -/
inductive Refusal
  /-- A command of this mnemonic has no meaning in the model. Raised by an arm of `exec` alone; no arm
  raises it, every command of the table has its meaning. Safe: the model stops. -/
  | notModelled (mnemonic : String)
  deriving DecidableEq, Repr

/-- The outcome of a step of this machine. -/
abbrev StepResult := Host.Outcome State Fault Refusal

/-- The reset values of the registers an operation may write (R44). -/
def Regs.reset : Regs where
  S := identityPerm
  I := 0#5
  J := 0#5
  KEY := Vector.replicate 32 0#6
  KLEN := 0#6
  PHASE := .keyload
  OUT := 0#32
  RESULT := 0#32
  MCOUNT := 0#32

/-- The machine right after reset (R44, R125): nothing pending, no error, no request outstanding, no
transaction to come. `draws = 0` is the model's choice (log entry 3). -/
def State.reset : State where
  toRegs := Regs.reset
  BUSY := false
  ERR := false
  ERRCODE := .none
  PENDING := none
  inputs := []
  response := none
  draws := 0

end Sys2Proof.Machine
end

