-- ==== Sys2Proof/Machine/Flags.lean ====
section
/-! DEFINITION. The flags of SC32 (10_state.md R28: `BUSY`, `ERR`, `PHASE`, `OUT.VALID`,
`RESULT.FOUND`) as bits, and the words that carry them: `STATUS` (R35), `OUT` (R36), `RESULT` (R37). -/

namespace Sys2Proof.Machine

/-- The 4-bit code of an error (60_exceptions.md R106). -/
def errCodeBits : ErrCode → BitVec 4
  | .none => 0
  | .invalidKeySymbol => 1
  | .invalidMsgSymbol => 2
  | .emptyKey => 3
  | .sequence => 4
  | .illegalCmd => 5
  | .overrun => 6

/-- `STATUS.PHASE`: 0 = `KEYLOAD`, 1 = `STREAM` (R24). -/
def phaseBit : Phase → BitVec 1
  | .keyload => 0
  | .stream => 1

/-- `STATUS`: 18 zero bits, `KLEN`, `ERRCODE`, a zero bit, `PHASE`, `ERR`, `BUSY` (R35). -/
def statusWord (s : State) : Word :=
  0#18 ++ s.KLEN ++ errCodeBits s.ERRCODE ++ 0#1 ++ phaseBit s.PHASE ++ BitVec.ofBool s.ERR ++
    BitVec.ofBool s.BUSY

/-- `OUT` after a `MSG`: `VALID` = 1, 10 zero bits, `KS`, 2 zero bits, `IDX`, `SYM` (R36, R99). -/
def outWord (ks : Entry) (idx : Index) (sym : Code) : Word :=
  1#1 ++ 0#10 ++ ks ++ 0#2 ++ idx ++ sym

/-- `OUT.SYM`, bits 7..0 (R36). -/
def outSym (w : Word) : Code := w.extractLsb' 0 8

/-- `OUT.IDX`, bits 13..8 (R36). -/
def outIdx (w : Word) : Index := w.extractLsb' 8 6

/-- `OUT.KS`, bits 20..16 (R36). -/
def outKs (w : Word) : Entry := w.extractLsb' 16 5

/-- `OUT.VALID`, bit 31 (R36). -/
def outValid (w : Word) : Bool := w.getLsbD 31

/-- `RESULT` after a lookup that succeeded: 23 zero bits, `FOUND` = 1, `VALUE` (R37, R80, R81). -/
def foundWord (value : Byte) : Word := 0#23 ++ 1#1 ++ value

/-- `RESULT.VALUE`, bits 7..0 (R37). -/
def resultValue (w : Word) : Byte := w.extractLsb' 0 8

/-- `RESULT.FOUND`, bit 8 (R37). -/
def resultFound (w : Word) : Bool := w.getLsbD 8

end Sys2Proof.Machine
end

