-- ==== Sys2Proof/Machine/Alphabet.lean ====
section
/-! DEFINITION. The alphabet mapper: the constant table of 37 symbol codes and its two functions
(41_alphabet_mapper.md R74-R79). -/

namespace Sys2Proof.Machine

/-- The alphabet ROM: the code of each index 0..36: space, `a`..`z`, `0`..`9` (R15, R74, R75). -/
def alphabetRom : List Code :=
  [0x20,
   0x61, 0x62, 0x63, 0x64, 0x65, 0x66, 0x67, 0x68, 0x69, 0x6A, 0x6B, 0x6C, 0x6D,
   0x6E, 0x6F, 0x70, 0x71, 0x72, 0x73, 0x74, 0x75, 0x76, 0x77, 0x78, 0x79, 0x7A,
   0x30, 0x31, 0x32, 0x33, 0x34, 0x35, 0x36, 0x37, 0x38, 0x39]

/-- `Lookup(c)`: the index of the symbol whose code is `c`, or none, not found (R76, R79). -/
def lookup (c : Code) : Option Index :=
  if c = 0x20#8 then some 0#6
  else if 0x61 ≤ c.toNat ∧ c.toNat ≤ 0x7A then some (BitVec.ofNat 6 (c.toNat - 0x60))
  else if 0x30 ≤ c.toNat ∧ c.toNat ≤ 0x39 then some (BitVec.ofNat 6 (c.toNat - 0x30 + 27))
  else none

/-- `Unmap(n)`: the code of the symbol of index `n`, for `n` in 0..36 (R77). -/
def unmap (n : Index) : Code :=
  if n = 0#6 then 0x20#8
  else if n.toNat ≤ 26 then BitVec.ofNat 8 (n.toNat + 0x60)
  else BitVec.ofNat 8 (n.toNat + 0x15)

end Sys2Proof.Machine
end

