-- ==== Sys2Proof/Machine/Operands.lean ====
section
/-! DEFINITION. The operand forms of 30_encoding.md R67: `ARG` as a symbol code, and `ARG` as a symbol
index. A command without an operand ignores `ARG` already in the decoder (R70). -/

namespace Sys2Proof.Machine

/-- `ARG` of `KEY`, `MSG` and `MAP`: a symbol code, given to `Lookup` (R67, R76). -/
def symbolOperand (c : Code) : Option Index := lookup c

/-- `ARG` of `UNMAP`: a symbol index, compared as an unsigned number with 37 (R67, R81). -/
def indexOperand (n : Byte) : Option Index :=
  if n.toNat < 37 then some (n.setWidth 6) else none

end Sys2Proof.Machine
end

