-- ==== Sys2Proof/Machine/Ops.lean ====
section
/-! DEFINITION. The shared operations: reading and swapping permutation entries, the key buffer,
raising an error and clearing the latch (the taking of an exception on SC32 and the return from one,
60_exceptions.md R107, R114), the checks every command passes (R108), and the acceptance and completion
of an operation (R109). -/

namespace Sys2Proof.Machine

/-- `S[n]` (00_scope.md R10). -/
def permAt (p : Perm) (n : Entry) : Entry := p[n.toNat]'n.isLt

/-- `S[n] <- v` (00_scope.md R10). -/
def permSet (p : Perm) (n : Entry) (v : Entry) : Perm := p.set n.toNat v n.isLt

/-- `swap(S, a, b)`, one step; with `a = b` it changes nothing (00_scope.md R10). -/
def swap (p : Perm) (a b : Entry) : Perm := permSet (permSet p a (permAt p b)) b (permAt p a)

/-- `KEY[k mod KLEN]` (42_key_schedule.md R82). -/
def keyAt (key : KeyBuf) (klen : BitVec 6) (k : Entry) : Index :=
  key[k.toNat % klen.toNat]'(Nat.lt_of_le_of_lt (Nat.mod_le _ _) k.isLt)

/-- `raise E`: the latch is written only if it is clear, and nothing else changes: the command is
discarded and `BUSY` is not set (R107, R110). -/
def raise (e : ErrCode) (s : State) : State :=
  if s.ERR then s else { s with ERR := true, ERRCODE := e }

/-- The return from an error: `ERR <- 0; ERRCODE <- 0`, done by `CLR` when it is accepted (R102, R108
step 7, R114). -/
def clearLatch (s : State) : State := { s with ERR := false, ERRCODE := .none }

/-- Step 7 of R108: `BUSY <- 1`, and `PENDING` holds the operation with the registers it will produce
(R109). -/
def accept (op : Instr) (after : Regs) (s : State) : State :=
  { s with BUSY := true, PENDING := some { op := op, after := after } }

/-- The engine's completion step: the pending operation's whole effect is written, `BUSY <- 0` and
`PENDING <- none`. No effect writes the latch (R109, R129). -/
def complete (s : State) : State :=
  match s.PENDING with
  | some p => { s with toRegs := p.after, BUSY := false, PENDING := none }
  | none => { s with BUSY := false }

/-- The engine's turn: it completes `PENDING` when `BUSY = 1`, and has no other step (R129). -/
def engineTurn (s : State) : State := if s.BUSY then complete s else s

/-- Step 1 of R108: a command submitted while `BUSY = 1` raises `OVERRUN`; the running operation is
unaffected. -/
def whenIdle (s : State) (rest : StepResult) : StepResult :=
  if s.BUSY then .next (raise .overrun s) else rest

/-- Step 4 of R108: `KEY`, `SCHED` and `MSG` are ignored while `ERR = 1`; the latch is unchanged. -/
def whenClear (s : State) (rest : StepResult) : StepResult :=
  if s.ERR then .next s else rest

/-- Step 5 of R108: a command of the other phase raises `SEQUENCE`. -/
def whenPhase (p : Phase) (s : State) (rest : StepResult) : StepResult :=
  if s.PHASE = p then rest else .next (raise .sequence s)

/-- Step 2 of R108, after step 1: a word the decoder rejects raises `ILLEGAL_CMD` (R69). -/
def rejectIllegal (s : State) : StepResult := whenIdle s (.next (raise .illegalCmd s))

end Sys2Proof.Machine
end

