-- ==== Sys2Proof/Machine/KeySchedule.lean ====
section
/-! DEFINITION. Key loading and key scheduling: the algorithm `KSA` and the commands `KEY` and `SCHED`
(42_key_schedule.md R82-R91). -/

namespace Sys2Proof.Machine

/-- The value SC32 gives `PRGA_J_SEED` (00_scope.md R7, R91). -/
def prgaJSeed : Config.PrgaJSeed := .zero

/-- Step `k` of the key schedule: `j <- (j + S'[k] + KEY[k mod KLEN]) mod 32; swap(S', k, j)`. The sum
is of natural numbers, and `mod 32` keeps its low 5 bits (R82, R84). -/
def ksaStep (key : KeyBuf) (klen : BitVec 6) (k : Entry) (sj : Perm × Entry) : Perm × Entry :=
  let j := BitVec.ofNat 5 ((sj.2.toNat + (permAt sj.1 k).toNat + (keyAt key klen k).toNat) % 32)
  (swap sj.1 k j, j)

/-- The permutation and the accumulator after the first `n` steps `k = 0, ..., n-1`, from the identity
and `j = 0` (R82, R83). -/
def ksaRun (key : KeyBuf) (klen : BitVec 6) : Nat → Perm × Entry
  | 0 => (identityPerm, 0#5)
  | n + 1 => ksaStep key klen (BitVec.ofNat 5 n) (ksaRun key klen n)

/-- `KSA(KEY, KLEN)`: exactly 32 steps (R82). Irreducible, so that no unifier runs the 32 steps; its
equation is `ksa_eq`. -/
@[irreducible] def ksa (key : KeyBuf) (klen : BitVec 6) : Perm × Entry := ksaRun key klen 32

/-- The effect of `KEY` with the index `k` looked up: it is stored at `KEY[KLEN]` while `KLEN < 32`,
and not stored at 32 (R89, R23). -/
def storeKey (k : Index) (r : Regs) : Regs :=
  if h : r.KLEN.toNat < 32 then { r with KEY := r.KEY.set r.KLEN.toNat k h, KLEN := r.KLEN + 1 } else r

/-- The value `J` takes when `SCHED` ends, for a seed and the schedule's final accumulator (R91, D10). -/
def seedJ : Config.PrgaJSeed → Entry → Entry
  | .zero, _ => 0#5
  | .ksaFinal, jf => jf

/-- The effect of `SCHED` under a seed: the scheduled permutation, `I <- 0`, `J` seeded, and the phase
`STREAM` (R90, R91). -/
def schedule (seed : Config.PrgaJSeed) (r : Regs) : Regs :=
  { r with
    S := (ksa r.KEY r.KLEN).1
    I := 0#5
    J := seedJ seed (ksa r.KEY r.KLEN).2
    PHASE := .stream }

/-- `KEY c`: checks 1, 4, 5 and 6 of R108 in order, then the symbol is appended (R89). -/
def execKey (c : Code) (s : State) : StepResult :=
  whenIdle s <| whenClear s <| whenPhase .keyload s <|
    match symbolOperand c with
    | none => .next (raise .invalidKeySymbol s)
    | some k => .next (accept (.key c) (storeKey k s.toRegs) s)

/-- `SCHED`: checks 1, 4, 5 and 6 of R108 in order, then the key schedule (R90); only an empty key is
refused, short keys schedule normally (R88). -/
def execSched (s : State) : StepResult :=
  whenIdle s <| whenClear s <| whenPhase .keyload s <|
    if s.KLEN = 0#6 then .next (raise .emptyKey s)
    else .next (accept .sched (schedule prgaJSeed s.toRegs) s)

end Sys2Proof.Machine
end

