-- ==== Sys2Proof/Machine/Keystream.lean ====
section
/-! DEFINITION. Keystream generation and symbol combination: `PRGA`, `Combine` and the command `MSG`
(43_keystream.md R92-R99). -/

namespace Sys2Proof.Machine

/-- `I' <- (I + 1) mod 32` (R92). -/
def prgaI (i : Entry) : Entry := BitVec.ofNat 5 ((i.toNat + 1) % 32)

/-- `J' <- (J + S[I']) mod 32`, with `S` read before the swap (R92, R93). -/
def prgaJ (p : Perm) (i j : Entry) : Entry :=
  BitVec.ofNat 5 ((j.toNat + (permAt p (prgaI i)).toNat) % 32)

/-- `S'`: `S` with the entries `I'` and `J'` swapped (R92). -/
def prgaS (p : Perm) (i j : Entry) : Perm := swap p (prgaI i) (prgaJ p i j)

/-- `t <- (S'[I'] + S'[J']) mod 32` (R92). -/
def prgaT (p : Perm) (i j : Entry) : Entry :=
  BitVec.ofNat 5
    (((permAt (prgaS p i j) (prgaI i)).toNat + (permAt (prgaS p i j) (prgaJ p i j)).toNat) % 32)

/-- The keystream value `r <- S'[t]`, read after the swap (R92, R93). -/
def prgaR (p : Perm) (i j : Entry) : Entry := permAt (prgaS p i j) (prgaT p i j)

/-- `Combine(m, r)`: the 6-bit XOR, with one conditional subtraction of 37 (R95). -/
def combine (m : Index) (r : Entry) : Index :=
  let x := m ^^^ r.setWidth 6
  if 37 ≤ x.toNat then x - 37 else x

/-- The effect of `MSG` with the message index `m` looked up: one PRGA step, the combined symbol in
`OUT`, and one more in `MCOUNT` (R99, R31). -/
def encryptSymbol (m : Index) (r : Regs) : Regs :=
  let ks := prgaR r.S r.I r.J
  let o := combine m ks
  { r with
    S := prgaS r.S r.I r.J
    I := prgaI r.I
    J := prgaJ r.S r.I r.J
    OUT := outWord ks o (unmap o)
    MCOUNT := r.MCOUNT + 1 }

/-- `MSG c`: checks 1, 4, 5 and 6 of R108 in order, then one symbol is encrypted (R99). -/
def execMsg (c : Code) (s : State) : StepResult :=
  whenIdle s <| whenClear s <| whenPhase .stream s <|
    match symbolOperand c with
    | none => .next (raise .invalidMsgSymbol s)
    | some m => .next (accept (.msg c) (encryptSymbol m s.toRegs) s)

end Sys2Proof.Machine
end

