-- ==== Sys2Proof/Machine/Mapper.lean ====
section
/-! DEFINITION. The diagnostic commands `MAP` and `UNMAP` (41_alphabet_mapper.md R80, R81). -/

namespace Sys2Proof.Machine

/-- What `MAP c` leaves in `RESULT`: the index found, or 0 with `FOUND = 0` (R80). -/
def mapWord (c : Code) : Word :=
  match symbolOperand c with
  | some k => foundWord (k.setWidth 8)
  | none => 0#32

/-- What `UNMAP n` leaves in `RESULT`: the symbol code, or 0 with `FOUND = 0` from 37 on (R81). -/
def unmapWord (n : Byte) : Word :=
  match indexOperand n with
  | some k => foundWord (unmap k)
  | none => 0#32

/-- The effect of `MAP` and `UNMAP`: `RESULT` alone is written (R80, R81, R30). -/
def storeResult (w : Word) (r : Regs) : Regs := { r with RESULT := w }

/-- `MAP c`: legal in either phase and while `ERR = 1`; a code that is not found is no error (R80). -/
def execMap (c : Code) (s : State) : StepResult :=
  whenIdle s (.next (accept (.map c) (storeResult (mapWord c) s.toRegs) s))

/-- `UNMAP n`: legal in either phase and while `ERR = 1`; an index of 37 or more is no error (R81). -/
def execUnmap (n : Byte) (s : State) : StepResult :=
  whenIdle s (.next (accept (.unmap n) (storeResult (unmapWord n) s.toRegs) s))

end Sys2Proof.Machine
end

