-- ==== Sys2Proof/Machine/Session.lean ====
section
/-! DEFINITION. Session control: `NOP` and `CLR` (44_session_control.md R101, R102). -/

namespace Sys2Proof.Machine

/-- The effect of `CLR`: every register at its reset value, `RESULT` unchanged (R102). -/
def clearSession (r : Regs) : Regs := { Regs.reset with RESULT := r.RESULT }

/-- `NOP`: nothing changes and `BUSY` stays 0; submitted while busy it is an `OVERRUN` like any other
command (R101, R108 steps 1 and 3). -/
def execNop (s : State) : StepResult := whenIdle s (.next s)

/-- `CLR`: legal in any phase and with any latch; the latch is cleared at acceptance, the session state
at completion (R102, R108 step 7). -/
def execClr (s : State) : StepResult :=
  whenIdle s (.next (accept .clr (clearSession s.toRegs) (clearLatch s)))

end Sys2Proof.Machine
end

