-- ==== Sys2Proof/Machine/Dispatch.lean ====
section
/-! DEFINITION. The dispatch: one arm per command of the opcode table. -/

namespace Sys2Proof.Machine

/-- The submission of a decoded command: steps 1 and 3 to 7 of 60_exceptions.md R108. -/
def exec (i : Instr) (s : State) : Host.Outcome State Fault Refusal :=
  match i with
  | .nop => Sys2Proof.Machine.execNop s
  | .clr => Sys2Proof.Machine.execClr s
  | .key c => Sys2Proof.Machine.execKey c s
  | .sched => Sys2Proof.Machine.execSched s
  | .msg c => Sys2Proof.Machine.execMsg c s
  | .map c => Sys2Proof.Machine.execMap c s
  | .unmap n => Sys2Proof.Machine.execUnmap n s

end Sys2Proof.Machine
end

