-- ==== Sys2Proof/Machine/Registers.lean ====
section
/-! DEFINITION. The host register map and what each register reads (10_state.md R32-R43,
20_memory.md R49). -/

namespace Sys2Proof.Machine

/-- The registers of the window (R32). -/
inductive Reg
  /-- `ID`, read-only (R33). -/
  | id
  /-- `CMD`, write-only, holds nothing (R34). -/
  | cmd
  /-- `STATUS`, read-only (R35). -/
  | status
  /-- `OUT`, read-only (R36). -/
  | out
  /-- `RESULT`, read-only (R37). -/
  | result
  /-- `MCOUNT`, read-only (R38). -/
  | mcount
  /-- `IJ`, read-only, debug (R39). -/
  | ij
  /-- `STATE[n]`, read-only, debug (R40). -/
  | state (n : Entry)
  /-- `KEYBUF[n]`, read-only, debug (R41). -/
  | keybuf (n : Entry)
  deriving DecidableEq, Repr

/-- The offset of a register (R32). -/
def Reg.offset : Reg → Offset
  | .id => 0x000
  | .cmd => 0x004
  | .status => 0x008
  | .out => 0x00C
  | .result => 0x010
  | .mcount => 0x014
  | .ij => 0x018
  | .state n => BitVec.ofNat 12 (0x080 + 4 * n.toNat)
  | .keybuf n => BitVec.ofNat 12 (0x100 + 4 * n.toNat)

/-- The register at an offset; none where the map lists none. The map is complete (R32, R52). -/
def regAt (off : Offset) : Option Reg :=
  let a := off.toNat
  if a % 4 ≠ 0 then none
  else if a = 0x000 then some .id
  else if a = 0x004 then some .cmd
  else if a = 0x008 then some .status
  else if a = 0x00C then some .out
  else if a = 0x010 then some .result
  else if a = 0x014 then some .mcount
  else if a = 0x018 then some .ij
  else if 0x080 ≤ a ∧ a < 0x100 then some (.state (BitVec.ofNat 5 ((a - 0x080) / 4)))
  else if 0x100 ≤ a ∧ a < 0x180 then some (.keybuf (BitVec.ofNat 5 ((a - 0x100) / 4)))
  else none

/-- The identification value, a constant (R15, R33). -/
def idWord : Word := 0x53432025

/-- The fields of `OUT`: `SYM`, `IDX`, `KS`, `VALID`; its other bits are reserved (R36). -/
def outFields : Word := 0x801F3FFF

/-- The fields of `RESULT`: `VALUE`, `FOUND`; its other bits are reserved (R37). -/
def resultFields : Word := 0x000001FF

/-- `IJ`: 19 zero bits, `J`, 3 zero bits, `I` (R39). -/
def ijWord (i j : Entry) : Word := 0#19 ++ j ++ 0#3 ++ i

/-- What a register holds, read exactly. Reserved bits read 0 in every state (R33-R42). -/
def regValue (r : Reg) (s : State) : Word :=
  match r with
  | .id => idWord
  | .cmd => 0
  | .status => statusWord s
  | .out => s.OUT &&& outFields
  | .result => s.RESULT &&& resultFields
  | .mcount => s.MCOUNT
  | .ij => ijWord s.I s.J
  | .state n => 0#27 ++ permAt s.S n
  | .keybuf n => 0#26 ++ s.KEY[n.toNat]'n.isLt

/-- The bits of a register that are unspecified when it is read while `BUSY = 1`: every field but
`ID` and `STATUS.BUSY`, `STATUS.ERR`, `STATUS.ERRCODE` (R43). Reserved bits still read 0 (R42). `CMD`
has no field and reads 0 (R34; log entry 4). -/
def unspecifiedBits : Reg → Word
  | .id => 0
  | .cmd => 0
  | .status => 0x00003F04
  | .out => outFields
  | .result => resultFields
  | .mcount => 0xFFFFFFFF
  | .ij => 0x00001F1F
  | .state _ => 0x0000001F
  | .keybuf _ => 0x0000003F

/-- The word a read of a register returns: exact while `BUSY = 0`; while `BUSY = 1` its unspecified
bits come from the free draw (R43, R131). -/
def readWord (r : Reg) (s : State) : Word :=
  if s.BUSY then
    (regValue r s &&& ~~~unspecifiedBits r) ||| (Config.busyRead s.draws &&& unspecifiedBits r)
  else regValue r s

/-- How many draws a read takes: one when it returns unspecified bits (R43: independent for each
read). -/
def drawsOf (r : Reg) (s : State) : Nat :=
  if s.BUSY ∧ unspecifiedBits r ≠ 0#32 then 1 else 0

/-- The byte of the window at an offset, where a register stands: byte `k` of a register is its bits
`8k+7..8k`, little-endian (R49). It says what a bus adapter finds in a lane; SC32 itself refuses every
access that is not a whole word (R50). -/
def windowByte (off : Offset) (s : State) : Option Byte :=
  (regAt (BitVec.ofNat 12 (off.toNat / 4 * 4))).map fun r =>
    (regValue r s).extractLsb' (8 * (off.toNat % 4)) 8

end Sys2Proof.Machine
end

