-- ==== Sys2Proof/Machine/Bus.lean ====
section
/-! DEFINITION. The host's transactions and reset: which accesses are legal, `MemRead`, `MemWrite`, the
submission of a command word, and the reset edge (20_memory.md R45-R58, 60_exceptions.md R108,
70_reset_and_hazards.md R124). -/

namespace Sys2Proof.Machine

/-- The access size `req_size` encodes (R45). -/
def accessSize (reqSize : BitVec 2) : AccessSize :=
  match reqSize.toNat with
  | 0 => .byte
  | 1 => .half
  | 2 => .word
  | _ => .reserved

/-- How the platform decodes a byte address to an offset of the window at `SC_BASE`: 4096 bytes, and
nothing outside them (R46, R56). -/
def windowOffset (addr : Nat) : Option Offset :=
  if Config.scBase ≤ addr ∧ addr < Config.scBase + 4096 then
    some (BitVec.ofNat 12 (addr - Config.scBase))
  else none

/-- The OK response of a write: `rsp_rdata` = 0, `rsp_err` = 0 (R45, R48). -/
def okWrite : Response := { rdata := 0, err := false }

/-- The OK response of a read (R47). -/
def okRead (v : Word) : Response := { rdata := v, err := false }

/-- The error response: `rsp_rdata` = 0, `rsp_err` = 1 (R45). -/
def errorResponse : Response := { rdata := 0, err := true }

/-- The bus gives a response. -/
def respond (r : Response) (s : State) : State := { s with response := some r }

/-- The next event is taken: it leaves the events to come, and the response of an earlier request has
had its one cycle (R45). -/
def takeInput (rest : List Input) (s : State) : State := { s with inputs := rest, response := none }

/-- The register a legal access reaches: 4 bytes wide, 4-byte aligned, and in the register map; none
for every other access (R47, R48, R50, R51, R52). -/
def accessed (off : Offset) (size : AccessSize) : Option Reg :=
  if size ≠ .word then none
  else if off.toNat % 4 ≠ 0 then none
  else regAt off

/-- `MemRead(off, size)`: the register's value, or an error response. No read changes any state of
SC32 (R47, R54); only the model's draw counter may advance (log entry 3). -/
def memRead (off : Offset) (size : AccessSize) (s : State) : State :=
  match accessed off size with
  | none => respond errorResponse s
  | some r => respond (okRead (readWord r s)) { s with draws := s.draws + drawsOf r s }

/-- A word written to `CMD` is submitted: decoded, then dispatched; an illegal word raises
`ILLEGAL_CMD`, or `OVERRUN` while busy (R70, R108). -/
def submitCommand (w : Word) (s : State) : StepResult :=
  match decode w with
  | .command i => exec i s
  | .illegal _ => rejectIllegal s

/-- The decision of a `CMD` write is followed by its OK response (R48, R58). -/
def answerOk (o : StepResult) : StepResult :=
  match o with
  | .next s => .next (respond okWrite s)
  | .fault f => .fault f
  | .refused r => .refused r

/-- `MemWrite(off, size, v)`: a legal write to `CMD` submits a command, one to any other register gets
an OK response and changes nothing, every other access an error response (R48, R53). -/
def memWrite (off : Offset) (size : AccessSize) (v : Word) (s : State) : StepResult :=
  match accessed off size with
  | none => .next (respond errorResponse s)
  | some .cmd => answerOk (submitCommand v s)
  | some _ => .next (respond okWrite s)

/-- A transaction is decided completely before the next one (R58). -/
def serve (r : BusRequest) (s : State) : StepResult :=
  match r with
  | .read off size => .next (memRead off size s)
  | .write off size v => memWrite off size v s

/-- A reset edge: every piece of state takes its reset value whatever SC32 was doing; a pending
operation is discarded, and a request still owed its response gets none (R124, R125). What the host
will do afterwards is not SC32's state, and the draw counter goes on so that later draws are new. -/
def resetEdge (s : State) : State := { State.reset with inputs := s.inputs, draws := s.draws }

/-- The transaction of one `CMD` write (R34, R65). -/
def cmdWrite (w : Word) : Input := .request (.write 0x004#12 .word w)

end Sys2Proof.Machine
end

