-- ==== Sys2Proof/Machine/Step.lean ====
section
/-! DEFINITION. One step of the machine: the next event is served. -/

namespace Sys2Proof.Machine

/-- One step: the oldest event of `inputs` happens. With no event left the engine has its turn, so a
pending operation always completes (60_exceptions.md R109, 70_reset_and_hazards.md R129; log entry
1). -/
def step (s : State) : Host.Outcome State Fault Refusal :=
  match s.inputs with
  | [] => .next (engineTurn (takeInput [] s))
  | .engine :: rest => .next (engineTurn (takeInput rest s))
  | .reset :: rest => .next (resetEdge (takeInput rest s))
  | .request r :: rest => serve r (takeInput rest s)

/-- The state in which the very next step submits the word `w`: its first `nbits` bits, written to
`CMD` by the host ahead of every other event (20_memory.md R62: commands arrive as writes to `CMD`; log
entry 1). -/
def State.withFetchWord (s : State) (nbits w : Nat) : State :=
  { s with inputs := cmdWrite (BitVec.ofNat 32 (w % 2 ^ nbits)) :: s.inputs }

end Sys2Proof.Machine
end

