-- ==== Sys2Proof/Machine/Script.lean ====
section
/-! DEFINITION. The host side of the spec as transactions: the conversion of characters
(70_reset_and_hazards.md R135), the statements of host scripts and the pseudo-commands (30_encoding.md
R72, R73). A script is not executed by SC32: it lists the transactions a host issues. `b` is how often a
`POLL` reads `BUSY = 1` before the operation completes; no rule fixes it (R137). The branch of `JERR`
and the end of a `POLL` loop are the host's own control flow. -/

namespace Sys2Proof.Machine

/-- The code a host gives for a character: the symbol's code for a character of the alphabet, and for
any other a code `Lookup` does not find, never a truncated wide character (R135). -/
def hostCode (c : Char) : Code := if symbolChar c then BitVec.ofNat 8 c.toNat else 0xFF

/-- `RD REG`: one read of a register (R72). -/
def rd (r : Reg) : Input := .request (.read r.offset .word)

/-- `POLL`: `STATUS` is read until `BUSY` is 0; `b` reads come before the engine completes (R72). -/
def poll (b : Nat) : List Input := List.replicate b (rd .status) ++ [.engine, rd .status]

/-- `RAW MNEMONIC operand`: the write alone (R72). -/
def raw (i : Instr) : List Input := [cmdWrite (encode i)]

/-- `C MNEMONIC operand`: the write, then `POLL` (R72). -/
def cmd (i : Instr) (b : Nat) : List Input := raw i ++ poll b

/-- `JERR label`: the read of `STATUS` it tests (R72). -/
def jerr : List Input := [rd .status]

/-- `KEYSTR "s"`, each character with its poll count (R73). -/
def keyStr (s : List (Char × Nat)) : List Input :=
  s.flatMap fun cb => cmd (.key (hostCode cb.1)) cb.2

/-- `MSGSTR "s"`, each character with its poll count (R73). -/
def msgStr (s : List (Char × Nat)) : List Input :=
  s.flatMap fun cb => cmd (.msg (hostCode cb.1)) cb.2 ++ [rd .out]

/-- `TRANSFORM "m", "k"` (R73), with the poll counts of `CLR` and `SCHED`. -/
def transformScript (bClr : Nat) (k : List (Char × Nat)) (bSched : Nat) (m : List (Char × Nat)) :
    List Input :=
  cmd .clr bClr ++ keyStr k ++ cmd .sched bSched ++ msgStr m ++ [rd .status]

end Sys2Proof.Machine
end

