-- ==== Sys2Proof/Machine/Source.lean ====
section
/-! DEFINITION. The function the source specifies, `transform(message, key) -> string`, on lists of
natural numbers and characters, as the source states it (41_alphabet_mapper.md R74, 42_key_schedule.md
R82, R83, 43_keystream.md R92, R95, 42_key_schedule.md R91). It is no part of the machine: claims compare
the machine with it (44_session_control.md R104). -/

namespace Sys2Proof.Machine.Source

/-- The alphabet: space, then `a`..`z`, then `0`..`9`, in that order (R74). -/
def alphabet : List Char :=
  ' ' :: ((List.range 26).map fun n => Char.ofNat (97 + n)) ++
    (List.range 10).map fun n => Char.ofNat (48 + n)

/-- The position of a character in the alphabet; none is the source's `InvalidSymbol` (R76, R79). -/
def indexOf (c : Char) : Option Nat := alphabet.idxOf? c

/-- A text converted symbol by symbol, order and duplicates preserved (R76). -/
def indices (t : List Char) : Option (List Nat) := t.mapM indexOf

/-- Two entries of a list exchanged. -/
def exchange (st : List Nat) (a b : Nat) : List Nat := (st.set a (st.getD b 0)).set b (st.getD a 0)

/-- One step `i` of the initialization pass: `j = (j + state[i] + key_indices[i mod key_length]) mod 32`,
then `state[i]` and `state[j]` are swapped (R82). -/
def scheduleStep (key : List Nat) (sj : List Nat × Nat) (i : Nat) : List Nat × Nat :=
  let j := (sj.2 + sj.1.getD i 0 + key.getD (i % key.length) 0) % 32
  (exchange sj.1 i j, j)

/-- The key schedule on the whole key, of any length: one pass `i = 0..31` from the identity and
`j = 0` (R82, R83). -/
def schedule (key : List Nat) : List Nat :=
  ((List.range 32).foldl (scheduleStep key) (List.range 32, 0)).1

/-- The output indices of a message from a state and the indices `i` and `j` (R92, R95). -/
def outputs (st : List Nat) (i j : Nat) : List Nat → List Nat
  | [] => []
  | m :: ms =>
    let i' := (i + 1) % 32
    let j' := (j + st.getD i' 0) % 32
    let st' := exchange st i' j'
    let rand := st'.getD ((st'.getD i' 0 + st'.getD j' 0) % 32) 0
    (m ^^^ rand) % 37 :: outputs st' i' j' ms

/-- `transform(message, key)`: none when a character is not in the alphabet (`InvalidSymbol`) or the
key is empty (the broken precondition); the keystream starts from `i = j = 0` (R91, R104). -/
def transform (message key : List Char) : Option (List Char) :=
  match indices key, indices message with
  | some k, some m =>
    if k = [] then none
    else some ((outputs (schedule k) 0 0 m).map fun n => alphabet.getD n ' ')
  | _, _ => none

end Sys2Proof.Machine.Source
end

