-- ==== Sys2Proof/Machine/Timing.lean ====
section
/-! DEFINITION. The nominal timing of 70_reset_and_hazards.md R137. No rule of a model may depend on
these numbers, and nothing in this model reads them: they record the spec's table. -/

namespace Sys2Proof.Machine

/-- The nominal number of cycles `BUSY` is 1 after a command is accepted (R137). -/
def nominalBusyCycles : Instr → Nat
  | .nop => 0
  | .clr => 1
  | .key _ => 1
  | .sched => 33
  | .msg _ => 2
  | .map _ => 1
  | .unmap _ => 1

/-- The nominal number of cycles from a request's transfer to its response (R137). -/
def nominalResponseCycles : Nat := 1

end Sys2Proof.Machine
end

