-- ==== Sys2Proof/Safety.lean ====
section
/-! DEFINITION. The terms claims use: the invariant of every reachable state, what a host observes of a
run, the sessions of a run and their results (00_scope.md R12), and the registers with `RESULT` blanked. -/

namespace Sys2Proof.Machine

/-- The whole effect of a command's operation on the registers, whichever command it is (R109). `NOP`
starts no operation. -/
def operation (i : Instr) (r : Regs) : Regs :=
  match i with
  | .nop => r
  | .clr => clearSession r
  | .key c =>
    match symbolOperand c with
    | some k => storeKey k r
    | none => r
  | .sched => schedule prgaJSeed r
  | .msg c =>
    match symbolOperand c with
    | some m => encryptSymbol m r
    | none => r
  | .map c => storeResult (mapWord c) r
  | .unmap n => storeResult (unmapWord n) r

/-- The registers pass checks 5 and 6 of R108 for a command that starts an operation. -/
def admits (r : Regs) : Instr → Prop
  | .nop => False
  | .clr => True
  | .key c => r.PHASE = .keyload ∧ (symbolOperand c).isSome
  | .sched => r.PHASE = .keyload ∧ r.KLEN ≠ 0#6
  | .msg c => r.PHASE = .stream ∧ (symbolOperand c).isSome
  | .map _ => True
  | .unmap _ => True

/-- `S` is a bijection on [0,32): its 32 entries are distinct (R19). -/
def isPermutation (p : Perm) : Prop := ∀ a b : Entry, permAt p a = permAt p b → a = b

/-- The `n`-th entry of the key buffer. -/
def keyEntry (key : KeyBuf) (n : Entry) : Index := key[n.toNat]'n.isLt

/-- The permutation as a list of numbers. -/
def permList (p : Perm) : List Nat := p.toList.map BitVec.toNat

/-- The key entries held, as a list of numbers: `KEY[0], ..., KEY[KLEN-1]`. -/
def keyList (key : KeyBuf) (klen : BitVec 6) : List Nat := (key.toList.take klen.toNat).map BitVec.toNat

/-- The keystream registers after `n` steps of the PRGA (R92). -/
def prgaRun : Nat → Perm × Entry × Entry → Perm × Entry × Entry
  | 0, sij => sij
  | n + 1, sij => prgaRun n (prgaS sij.1 sij.2.1 sij.2.2, prgaI sij.2.1, prgaJ sij.1 sij.2.1 sij.2.2)

/-- What holds of the registers in every reachable state. -/
structure Regs.Inv (r : Regs) : Prop where
  /-- `S` is a permutation (R19). -/
  perm : isPermutation r.S
  /-- `KLEN` is 0..32 (R23). -/
  klen : r.KLEN.toNat ≤ 32
  /-- The key entries held are symbol indices 0..36 (R22). -/
  keyRange : ∀ n : Entry, (keyEntry r.KEY n).toNat ≤ 36
  /-- The entries at `n >= KLEN` hold 0 (R22). -/
  keyTail : ∀ n : Entry, r.KLEN.toNat ≤ n.toNat → keyEntry r.KEY n = 0#6
  /-- In `STREAM` the key is not empty (R88, R90). -/
  streamKey : r.PHASE = .stream → r.KLEN ≠ 0#6
  /-- In `KEYLOAD` the cipher state is that of a new session (R102, R125). -/
  keyloadFresh : r.PHASE = .keyload →
    r.S = identityPerm ∧ r.I = 0#5 ∧ r.J = 0#5 ∧ r.OUT = 0#32 ∧ r.MCOUNT = 0#32
  /-- `OUT` is 0, or a valid result whose symbol is of the alphabet (R29, R36, R99). -/
  out : r.OUT = 0#32 ∨ ∃ (ks : Entry) (o : Index), o.toNat ≤ 36 ∧ r.OUT = outWord ks o (unmap o)
  /-- Without an output there is no count (R29, R31). -/
  noOutput : r.OUT = 0#32 → r.MCOUNT = 0#32
  /-- `RESULT` is 0, or carries the index or the code of a symbol (R30, R37, R80, R81). -/
  result : r.RESULT = 0#32 ∨ ∃ k : Index, k.toNat ≤ 36 ∧
    (r.RESULT = foundWord (k.setWidth 8) ∨ r.RESULT = foundWord (unmap k))

/-- What holds of every reachable state. -/
structure State.Inv (s : State) : Prop where
  /-- The registers are as `Regs.Inv` says. -/
  regs : s.toRegs.Inv
  /-- `PENDING` is none exactly when `BUSY = 0` (R26). -/
  busy : s.BUSY = s.PENDING.isSome
  /-- `ERRCODE` is 0 exactly when `ERR = 0` (R27, R35). -/
  latch : s.ERR = false ↔ s.ERRCODE = .none
  /-- A pending operation is one the registers admit, and holds the effect of its command on them: the
  same whether computed at acceptance or at completion (R109). -/
  pending : ∀ p, s.PENDING = some p → admits s.toRegs p.op ∧ p.after = operation p.op s.toRegs

/-- The response the host takes after a step that led to `s`: none when the next event is a reset,
which comes before the response's cycle (R124, 93_implementation_defined.md I10). -/
def delivered (s : State) : Option Response :=
  match s.inputs with
  | .reset :: _ => none
  | _ => s.response

/-- The next event is a legal read of `OUT`. -/
def readsOut (s : State) : Bool := s.inputs.head? == some (rd .out)

/-- The words the host reads from `OUT` in the next `k` steps, in order (R12, R64). -/
def outReads : Nat → State → List Word
  | 0, _ => []
  | k + 1, s =>
    match step s with
    | .next t =>
      (if readsOut s then ((delivered t).map Response.rdata).toList else []) ++ outReads k t
    | .fault _ => []
    | .refused _ => []

/-- The next event starts a session: a reset edge, or a `CLR` written while `BUSY = 0` (R12, R102). A
`CLR` written while `BUSY = 1` is discarded (R108 step 1) and starts none (log entry 16). -/
def startsSession (s : State) : Bool :=
  match s.inputs with
  | [] => false
  | .engine :: _ => false
  | .reset :: _ => true
  | .request (.read _ _) :: _ => false
  | .request (.write off size w) :: _ =>
    accessed off size == some .cmd && decode w == .command .clr && !s.BUSY

/-- The next event is the engine's turn (R129). -/
def engineNext (s : State) : Bool :=
  match s.inputs with
  | [] => true
  | .engine :: _ => true
  | .reset :: _ => false
  | .request _ :: _ => false

/-- The operation of a command is a `MSG`'s. -/
def isMsg : Instr → Bool
  | .nop => false
  | .clr => false
  | .key _ => false
  | .sched => false
  | .msg _ => true
  | .map _ => false
  | .unmap _ => false

/-- The next step completes a `MSG` (R99, R109). -/
def completesMsg (s : State) : Bool := engineNext s && s.BUSY && s.PENDING.any fun p => isMsg p.op

/-- What the host has of the session in progress. -/
structure Observation where
  /-- The output symbols read so far, oldest first. -/
  outputs : List Code
  /-- A `MSG` of the session has completed, and the host has not read its symbol yet. -/
  unread : Bool
  deriving DecidableEq, Repr

/-- A session at its start: nothing has been read, and no `MSG` has completed. -/
def Observation.start : Observation := { outputs := [], unread := false }

/-- What one step from `s` to `t` adds: the completion of a `MSG` makes a symbol available, and the
first read of `OUT` after it, with `BUSY = 0` and its response delivered, takes that symbol. Every other
read of `OUT` adds none: before a `MSG`, a second one after it, or one while `BUSY = 1`, whose value is
unspecified (R12, R43, R132; log entry 16). -/
def Observation.after (o : Observation) (s t : State) : Observation :=
  if completesMsg s then { o with unread := true }
  else if o.unread && readsOut s && !s.BUSY then
    match delivered t with
    | some r => { outputs := o.outputs ++ [outSym r.rdata], unread := false }
    | none => o
  else o

/-- The observable result of a session (R12). -/
structure SessionResult where
  /-- The `OUT.SYM` values the host read after each `MSG` completed, in order. -/
  outputs : List Code
  /-- `STATUS.ERR` at the session's end. -/
  err : Bool
  deriving DecidableEq, Repr

/-- What a result stands for: its outputs when the session ended with `ERR = 0`, and nothing when it
ended with `ERR = 1`, whose outputs the host discards (R12, R123, R133). -/
def SessionResult.value (r : SessionResult) : Option (List Code) :=
  if r.err then none else some r.outputs

/-- The result of the session in progress, if it ends in state `s`. -/
def Observation.close (o : Observation) (s : State) : SessionResult :=
  { outputs := o.outputs, err := s.ERR }

/-- The results of the sessions of the next `k` steps, oldest first, from a state in which `o` has been
observed of the session in progress: each ends where the next `CLR` or reset starts another, and the
last is the one in progress after the `k` steps (R12). -/
def sessionsFrom : Nat → Observation → State → List SessionResult
  | 0, o, s => [o.close s]
  | k + 1, o, s =>
    match step s with
    | .next t =>
      if startsSession s then o.close s :: sessionsFrom k .start t
      else sessionsFrom k (o.after s t) t
    | .fault _ => [o.close s]
    | .refused _ => [o.close s]

/-- The results of the sessions of the next `k` steps. The first is the one in progress at `s`, as
observed from `s` on: the whole of it when `s` is a state right after reset. -/
def sessions (k : Nat) (s : State) : List SessionResult := sessionsFrom k .start s

/-- The registers with `RESULT` blanked. -/
def Regs.blankResult (r : Regs) : Regs := { r with RESULT := 0#32 }

end Sys2Proof.Machine
end

