-- ==== Sys2Proof/Certificates/Slice0/Obligations.lean ====
section
/-! DEFINITION. The statements about SC32, for the provers. Each docstring names the rules of the spec a
statement formalises. -/

open Sys2Proof Sys2Proof.Machine

/-! ### Encoding -/

/-- 30_encoding.md R66, R67: every command decodes from its own word, with every operand, and the word
is `OP * 256 + ARG`. -/
def Obligations.EncodeThenDecodeIsIdentity : Prop :=
  ∀ i : Instr, decode (encode i) = .command i ∧
    (encode i).toNat = (opcode i).toNat * 256 + (operand i).toNat

/-- 30_encoding.md R68, R70: what the decoder answers on each of the 2^32 words, by its fields, and how
many words are commands. -/
def Obligations.DecoderFollowsOpcodeMap : Prop :=
  (∀ w : Word,
    (w.toNat / 4096 ≠ 0 → ∃ why, decode w = .illegal why) ∧
    (w.toNat / 4096 = 0 →
      (w.toNat / 256 % 16 = 0 → decode w = .command .nop) ∧
      (w.toNat / 256 % 16 = 1 → decode w = .command .clr) ∧
      (w.toNat / 256 % 16 = 2 → decode w = .command (.key (BitVec.ofNat 8 (w.toNat % 256)))) ∧
      (w.toNat / 256 % 16 = 3 → decode w = .command .sched) ∧
      (w.toNat / 256 % 16 = 4 → decode w = .command (.msg (BitVec.ofNat 8 (w.toNat % 256)))) ∧
      (w.toNat / 256 % 16 = 5 → decode w = .command (.map (BitVec.ofNat 8 (w.toNat % 256)))) ∧
      (w.toNat / 256 % 16 = 6 → decode w = .command (.unmap (BitVec.ofNat 8 (w.toNat % 256)))) ∧
      (7 ≤ w.toNat / 256 % 16 → ∃ why, decode w = .illegal why))) ∧
  ((Finset.range (2 ^ 32)).filter fun n => (decodeTableWord 32 n).isSome).card = 1792

/-- 30_encoding.md R69: an illegal word submitted to an idle machine raises `ILLEGAL_CMD` (the latch
keeps an earlier error) and has no other effect; every word 0x000000aa is `NOP`. -/
def Obligations.IllegalWordRaisesIllegalCmd : Prop :=
  (∀ (s : State) (w : Word) (rest : List Input),
    s.inputs = cmdWrite w :: rest → s.BUSY = false →
    (w.toNat / 4096 ≠ 0 ∨ 7 ≤ w.toNat / 256 % 16) →
    step s = .next { s with
      ERR := true
      ERRCODE := if s.ERR then s.ERRCODE else .illegalCmd
      inputs := rest
      response := some { rdata := 0, err := false } }) ∧
  (∀ a : Byte, decode (a.setWidth 32) = .command .nop)

/-- 30_encoding.md R71: the words of the assembler examples, and the commands they are. -/
def Obligations.ExampleWordsDecode : Prop :=
  decode 0x0000026B = .command (.key 0x6B) ∧ decode 0x00000420 = .command (.msg 0x20) ∧
  decode 0x00000624 = .command (.unmap 36) ∧ decode 0x00000100 = .command .clr ∧
  decode 0x00000300 = .command .sched ∧ decode 0x00000578 = .command (.map 0x78) ∧
  decode 0x00000000 = .command .nop

/-- 30_encoding.md R71: the assembler gives a word exactly for a well-formed command, that word decodes
to the command, and a quoted character stands for the code of the symbol it is. -/
def Obligations.AssemblerAgreesWithDecoder : Prop :=
  (∀ a : AsmCommand, a.wf = false → assemble a = none) ∧
  (∀ a : AsmCommand, a.wf = true → ∃ w, assemble a = some w ∧ decode w = .command (asmInstr a)) ∧
  (∀ c : Char, symbolChar c = true → ∃ n : Nat, Source.indexOf c = some n ∧
    lookup (asmOperandBits (.quoted c)) = some (BitVec.ofNat 6 n))

/-! ### The alphabet mapper -/

/-- 41_alphabet_mapper.md R76: `Lookup(c)` is found with index `k` exactly when the ROM holds the code
`c` at `k`. -/
def Obligations.LookupSearchesTheRom : Prop :=
  ∀ (c : Code) (k : Index), lookup c = some k ↔ alphabetRom[k.toNat]? = some c

/-- 41_alphabet_mapper.md R77, R78: `Lookup` and `Unmap` are inverse, `Unmap` reads the ROM, and
exactly 37 of the 256 codes are found. -/
def Obligations.LookupAndUnmapAreInverse : Prop :=
  (∀ n : Index, n.toNat < 37 →
    lookup (unmap n) = some n ∧ alphabetRom[n.toNat]? = some (unmap n)) ∧
  (∀ (c : Code) (k : Index), lookup c = some k → k.toNat < 37 ∧ unmap k = c) ∧
  ((List.range 256).filter fun n => (lookup (BitVec.ofNat 8 n)).isSome).length = 37

/-- 70_reset_and_hazards.md R135 with 41_alphabet_mapper.md R79: the code a host gives for a character
is looked up at the character's place in the alphabet, and is not found for any other character, wide
ones among them. -/
def Obligations.HostConversionIsExact : Prop :=
  ∀ c : Char, lookup (hostCode c) = (Source.indexOf c).map (BitVec.ofNat 6)

/-! ### The register window -/

/-- 10_state.md R32, 20_memory.md R52: the offset of every register, and the offsets that are
unmapped. -/
def Obligations.RegisterMapIsComplete : Prop :=
  (∀ (off : Offset) (r : Reg), regAt off = some r ↔ r.offset = off) ∧
  (∀ off : Offset, regAt off = none ↔
    off.toNat % 4 ≠ 0 ∨ (0x01C ≤ off.toNat ∧ off.toNat < 0x080) ∨ 0x180 ≤ off.toNat)

/-- 20_memory.md R46, R49: the window is the 4096 bytes at the 4 KiB-aligned `SC_BASE`, and byte `k` of
the register at `off` stands at the address `SC_BASE + off + k`, little-endian. -/
def Obligations.WindowIsLittleEndian : Prop :=
  Config.scBase % 4096 = 0 ∧
  (∀ (addr : Nat) (off : Offset),
    windowOffset addr = some off ↔ addr = Config.scBase + off.toNat) ∧
  (∀ (s : State) (r : Reg) (k : Nat), k < 4 →
    ∃ off : Offset, windowOffset (Config.scBase + r.offset.toNat + k) = some off ∧
      windowByte off s = some ((regValue r s).extractLsb' (8 * k) 8))

/-- 20_memory.md R50, R51, R52, 60_exceptions.md R112: an access of another size, a misaligned one and
one to an unmapped offset get an error response and change nothing of SC32, whether it reads or
writes. -/
def Obligations.RefusedAccessChangesNothing : Prop :=
  ∀ (s : State) (rest : List Input) (off : Offset) (size : AccessSize) (v : Word),
    (size ≠ .word ∨ off.toNat % 4 ≠ 0 ∨ (0x01C ≤ off.toNat ∧ off.toNat < 0x080) ∨
      0x180 ≤ off.toNat) →
    (s.inputs = .request (.read off size) :: rest ∨ s.inputs = .request (.write off size v) :: rest) →
    step s = .next { s with inputs := rest, response := some { rdata := 0, err := true } }

/-- 10_state.md R34-R42, 20_memory.md R47: a legal read while `BUSY = 0` gives an OK response with the
register's layout and changes nothing of SC32. -/
def Obligations.IdleReadShowsTheRegister : Prop :=
  ∀ (s : State) (rest : List Input) (r : Reg),
    s.inputs = .request (.read r.offset .word) :: rest → s.BUSY = false →
    ∃ v : Word, step s = .next { s with inputs := rest, response := some { rdata := v, err := false } } ∧
      match r with
      | .id => v = 0x53432025
      | .cmd => v = 0
      | .status => v.toNat = 2 * s.ERR.toNat + 4 * (phaseBit s.PHASE).toNat +
          16 * (errCodeBits s.ERRCODE).toNat + 256 * s.KLEN.toNat
      | .out => v.toNat = (outSym s.OUT).toNat + 256 * (outIdx s.OUT).toNat +
          65536 * (outKs s.OUT).toNat + 2147483648 * (outValid s.OUT).toNat
      | .result => v.toNat = (resultValue s.RESULT).toNat + 256 * (resultFound s.RESULT).toNat
      | .mcount => v = s.MCOUNT
      | .ij => v.toNat = s.I.toNat + 256 * s.J.toNat
      | .state n => v.toNat = (permAt s.S n).toNat
      | .keybuf n => v.toNat = (keyEntry s.KEY n).toNat

/-- 20_memory.md R53: a legal write to a register other than `CMD` gets an OK response and changes
nothing, whether an operation is running or not. -/
def Obligations.ReadOnlyWriteIsIgnored : Prop :=
  ∀ (s : State) (rest : List Input) (r : Reg) (v : Word),
    r ≠ .cmd → s.inputs = .request (.write r.offset .word v) :: rest →
    step s = .next { s with inputs := rest, response := some { rdata := 0, err := false } }

/-- 10_state.md R33, R42, R43, 20_memory.md R47: a legal read while `BUSY = 1` changes nothing of SC32;
`ID` reads exactly, `STATUS` shows `BUSY`, `ERR` and `ERRCODE` exactly, and the reserved bits of every
register read 0. The unspecified fields come from a free draw, and every such read takes a draw of its
own; that `CMD` reads 0 while busy too is the model's choice (log entry 4). -/
def Obligations.BusyReadIsExactOnlyWhereStated : Prop :=
  ∀ (s : State) (rest : List Input) (r : Reg),
    s.inputs = .request (.read r.offset .word) :: rest → s.BUSY = true →
    ∃ (v : Word) (d : Nat),
      step s = .next { s with
        inputs := rest
        response := some { rdata := v, err := false }
        draws := d } ∧
      match r with
      | .id => v = 0x53432025 ∧ d = s.draws
      | .cmd => v = 0 ∧ d = s.draws
      | .status => v.toNat % 4 = 1 + 2 * s.ERR.toNat ∧ v.toNat / 8 % 2 = 0 ∧
          v.toNat / 16 % 16 = (errCodeBits s.ERRCODE).toNat ∧ v.toNat / 16384 = 0 ∧ d = s.draws + 1
      | .out => v.toNat / 16384 % 4 = 0 ∧ v.toNat / 2097152 % 1024 = 0 ∧ d = s.draws + 1
      | .result => v.toNat < 512 ∧ d = s.draws + 1
      | .mcount => d = s.draws + 1
      | .ij => v.toNat / 32 % 8 = 0 ∧ v.toNat < 8192 ∧ d = s.draws + 1
      | .state _ => v.toNat < 32 ∧ d = s.draws + 1
      | .keybuf _ => v.toNat < 64 ∧ d = s.draws + 1

/-! ### Steps, completion and reset -/

/-- A step runs the decoded command (20_memory.md R48, R58): when the host's next transaction writes a
word to `CMD` that decodes to `i`, the step is `exec i` on the state with that event taken, followed by
the OK response; and a word placed by `withFetchWord` is the one the next step runs. -/
def Obligations.StepRunsDecodedCommand : Prop :=
  (∀ (s : State) (rest : List Input) (w : Word) (i : Instr),
    s.inputs = cmdWrite w :: rest → decode w = .command i →
    ∀ t, exec i { s with inputs := rest, response := none } = .next t →
      step s = .next { t with response := some { rdata := 0, err := false } }) ∧
  (∀ (s : State) (w : Word) (i : Instr), decode w = .command i →
    ∀ t, exec i { s with response := none } = .next t →
      step (s.withFetchWord 32 w.toNat) =
        .next { t with response := some { rdata := 0, err := false } })

/-- 70_reset_and_hazards.md R129, 60_exceptions.md R109: the engine's turn writes the pending effect
whole, clears `BUSY` and `PENDING`, and leaves the latch; while `BUSY = 0` the engine changes
nothing. -/
def Obligations.EngineCompletesPendingOperation : Prop :=
  ∀ (s : State) (rest : List Input),
    (s.inputs = .engine :: rest ∨ (s.inputs = [] ∧ rest = [])) →
    (∀ p, s.BUSY = true → s.PENDING = some p →
      step s = .next { s with
        toRegs := p.after
        BUSY := false
        PENDING := none
        inputs := rest
        response := none }) ∧
    (s.BUSY = false → step s = .next { s with inputs := rest, response := none })

/-- 70_reset_and_hazards.md R124, R125: at a reset edge, in any state whatever, every piece of state
takes its reset value, a pending operation is discarded, and no response is given. -/
def Obligations.ResetEdgeRestoresEverything : Prop :=
  ∀ (s : State) (rest : List Input), s.inputs = .reset :: rest →
    ∃ t, step s = .next t ∧ t.toRegs = State.reset.toRegs ∧ t.BUSY = false ∧ t.PENDING = none ∧
      t.ERR = false ∧ t.ERRCODE = .none ∧ t.response = none ∧ t.inputs = rest ∧
      regValue .status t = 0 ∧ regValue .id t = 0x53432025

/-- 10_state.md R44: the state after reset. -/
def Obligations.ResetValuesAreAsStated : Prop :=
  (∀ n : Entry, permAt State.reset.S n = n) ∧ State.reset.I = 0 ∧ State.reset.J = 0 ∧
    (∀ n : Entry, keyEntry State.reset.KEY n = 0) ∧ State.reset.KLEN = 0 ∧
    State.reset.PHASE = .keyload ∧ State.reset.BUSY = false ∧ State.reset.PENDING = none ∧
    State.reset.ERR = false ∧ State.reset.ERRCODE = .none ∧ State.reset.OUT = 0 ∧
    State.reset.RESULT = 0 ∧ State.reset.MCOUNT = 0

/-- 60_exceptions.md R113: SC32 has no trap: a step always answers a next state, whatever the state and
whatever the host does. -/
def Obligations.StepNeverStops : Prop := ∀ s : State, ∃ t, step s = .next t

/-- 60_exceptions.md R109, 70_reset_and_hazards.md R129: completion always comes: when the host's
events are used up, the machine is idle after one more step. (That the engine has its turn then is how
the model gives weak fairness: log entry 1.) -/
def Obligations.EveryOperationCompletes : Prop :=
  ∀ s : State, ∃ t : State, Sys2Proof.core.run (s.inputs.length + 1) s = .next t ∧ t.BUSY = false ∧
    t.inputs = []

/-- 60_exceptions.md R109, R111: whatever transactions arrive while an operation runs, its completion
writes the effect that was computed at acceptance; they can change nothing but the latch. -/
def Obligations.RunningOperationIsUnaffected : Prop :=
  ∀ (s : State) (reqs : List BusRequest) (rest : List Input) (p : Pending),
    s.BUSY = true → s.PENDING = some p → s.inputs = reqs.map Input.request ++ .engine :: rest →
    (∃ t : State, Sys2Proof.core.run reqs.length s = .next t ∧ t.toRegs = s.toRegs ∧ t.BUSY = true ∧
      t.PENDING = some p) ∧
    (∃ t : State, Sys2Proof.core.run (reqs.length + 1) s = .next t ∧ t.toRegs = p.after ∧ t.BUSY = false ∧
      t.PENDING = none ∧ t.inputs = rest)

/-! ### The commands: where each completes and what it leaves

Each statement says that `exec` accepts the command and that the engine's turn then leaves the stated
state: everything not named there is unchanged. -/

/-- 44_session_control.md R101: `NOP` on an idle machine changes nothing. -/
def Obligations.NopChangesNothing : Prop :=
  ∀ s : State, s.BUSY = false → exec .nop s = .next s

/-- 44_session_control.md R102, 60_exceptions.md R114, 70_reset_and_hazards.md R125: `CLR` on an idle
machine, in any phase and with any latch, clears the latch at acceptance and leaves at completion the
reset state but for `RESULT`. -/
def Obligations.ClrStartsFreshSession : Prop :=
  ∀ s : State, s.BUSY = false →
    ∃ t, exec .clr s = .next t ∧ t.toRegs = s.toRegs ∧ t.BUSY = true ∧ t.ERR = false ∧
      t.ERRCODE = .none ∧
      engineTurn t = { State.reset with
        RESULT := s.RESULT
        inputs := s.inputs
        response := s.response
        draws := s.draws }

/-- 42_key_schedule.md R89, 10_state.md R23: `KEY` appends the index of its symbol while `KLEN < 32`,
and at 32 validates the symbol and stores nothing. -/
def Obligations.KeyAppendsSymbol : Prop :=
  ∀ (s : State) (c : Code) (k : Index),
    s.BUSY = false → s.ERR = false → s.PHASE = .keyload → lookup c = some k →
    ∃ t, exec (.key c) s = .next t ∧ t.toRegs = s.toRegs ∧ t.BUSY = true ∧ t.ERR = false ∧
      (s.KLEN.toNat < 32 → ∃ u, engineTurn t = u ∧
        u = { s with KEY := u.KEY, KLEN := u.KLEN, PENDING := none } ∧
        u.KLEN.toNat = s.KLEN.toNat + 1 ∧
        ∀ n : Entry, keyEntry u.KEY n = if n.toNat = s.KLEN.toNat then k else keyEntry s.KEY n) ∧
      (32 ≤ s.KLEN.toNat → engineTurn t = { s with PENDING := none })

/-- 42_key_schedule.md R90, R91: `SCHED` with at least one key symbol leaves the scheduled permutation,
`I = J = 0` and the phase `STREAM`. What the scheduled permutation is, `KeyScheduleIsTheSources`
says. -/
def Obligations.SchedEntersStream : Prop :=
  ∀ s : State, s.BUSY = false → s.ERR = false → s.PHASE = .keyload → s.KLEN ≠ 0 →
    ∃ t, exec .sched s = .next t ∧ t.toRegs = s.toRegs ∧ t.BUSY = true ∧ t.ERR = false ∧
      engineTurn t = { s with
        S := (ksa s.KEY s.KLEN).1
        I := 0
        J := 0
        PHASE := .stream
        PENDING := none }

/-- 43_keystream.md R92, R95, R99, 10_state.md R31, R36: `MSG` in `STREAM`: the indices advance modulo
32, two entries are exchanged, the keystream value is read after the swap, the output index is the XOR
modulo 37, `OUT` carries them with the symbol of the ROM, and `MCOUNT` counts modulo 2^32. -/
def Obligations.MsgEncryptsSymbol : Prop :=
  ∀ (s : State) (c : Code) (m : Index),
    s.BUSY = false → s.ERR = false → s.PHASE = .stream → lookup c = some m →
    ∃ t u, exec (.msg c) s = .next t ∧ t.toRegs = s.toRegs ∧ t.BUSY = true ∧ t.ERR = false ∧
      engineTurn t = u ∧
      u = { s with
        S := u.S, I := u.I, J := u.J, OUT := u.OUT, MCOUNT := u.MCOUNT, PENDING := none } ∧
      u.I.toNat = (s.I.toNat + 1) % 32 ∧
      u.J.toNat = (s.J.toNat + (permAt s.S u.I).toNat) % 32 ∧
      (∀ n, permAt u.S n =
        if n = u.I then permAt s.S u.J else if n = u.J then permAt s.S u.I else permAt s.S n) ∧
      outKs u.OUT =
        permAt u.S (BitVec.ofNat 5 (((permAt u.S u.I).toNat + (permAt u.S u.J).toNat) % 32)) ∧
      (outIdx u.OUT).toNat = (m.toNat ^^^ (outKs u.OUT).toNat) % 37 ∧
      alphabetRom[(outIdx u.OUT).toNat]? = some (outSym u.OUT) ∧
      outValid u.OUT = true ∧ u.OUT &&& ~~~outFields = 0 ∧
      u.MCOUNT.toNat = (s.MCOUNT.toNat + 1) % 4294967296

/-- 41_alphabet_mapper.md R80, 10_state.md R37: `MAP` on an idle machine, in any phase and with any
latch, leaves `FOUND` and the index in `RESULT`, or 0, and changes nothing else. -/
def Obligations.MapReportsIndex : Prop :=
  ∀ (s : State) (c : Code), s.BUSY = false →
    ∃ (t : State) (w : Word), exec (.map c) s = .next t ∧ t.toRegs = s.toRegs ∧ t.BUSY = true ∧
      t.ERR = s.ERR ∧ t.ERRCODE = s.ERRCODE ∧ engineTurn t = { s with RESULT := w, PENDING := none } ∧
      (∀ k, lookup c = some k → w.toNat = 256 + k.toNat) ∧ (lookup c = none → w = 0)

/-- 41_alphabet_mapper.md R81, 10_state.md R37: `UNMAP` on an idle machine, in any phase and with any
latch, leaves `FOUND` and the symbol code in `RESULT` for an index below 37, 0 from 37 on, and changes
nothing else. -/
def Obligations.UnmapReportsCode : Prop :=
  ∀ (s : State) (n : Byte), s.BUSY = false →
    ∃ (t : State) (w : Word), exec (.unmap n) s = .next t ∧ t.toRegs = s.toRegs ∧ t.BUSY = true ∧
      t.ERR = s.ERR ∧ t.ERRCODE = s.ERRCODE ∧ engineTurn t = { s with RESULT := w, PENDING := none } ∧
      (∀ c, alphabetRom[n.toNat]? = some c → w.toNat = 256 + c.toNat) ∧ (37 ≤ n.toNat → w = 0)

/-! ### Errors -/

/-- 60_exceptions.md R107: `raise` writes the latch only if it is clear, and changes nothing else. -/
def Obligations.RaiseKeepsTheFirstError : Prop :=
  ∀ (e : ErrCode) (s : State),
    (s.ERR = false → raise e s = { s with ERR := true, ERRCODE := e }) ∧
    (s.ERR = true → raise e s = s)

/-- 60_exceptions.md R108: the checks on a submitted word, in their order; the first that applies ends
the command. -/
def Obligations.SubmissionChecksInOrder : Prop :=
  ∀ (s : State) (w : Word), ∃ t, submitCommand w s = .next t ∧
    if s.BUSY = true then t = raise .overrun s
    else match decode w with
      | .illegal _ => t = raise .illegalCmd s
      | .command .nop => t = s
      | .command (.key c) =>
        if s.ERR = true then t = s
        else if s.PHASE = .stream then t = raise .sequence s
        else if lookup c = none then t = raise .invalidKeySymbol s
        else t = { s with
          BUSY := true, PENDING := some { op := .key c, after := operation (.key c) s.toRegs } }
      | .command .sched =>
        if s.ERR = true then t = s
        else if s.PHASE = .stream then t = raise .sequence s
        else if s.KLEN = 0 then t = raise .emptyKey s
        else t = { s with
          BUSY := true, PENDING := some { op := .sched, after := operation .sched s.toRegs } }
      | .command (.msg c) =>
        if s.ERR = true then t = s
        else if s.PHASE = .keyload then t = raise .sequence s
        else if lookup c = none then t = raise .invalidMsgSymbol s
        else t = { s with
          BUSY := true, PENDING := some { op := .msg c, after := operation (.msg c) s.toRegs } }
      | .command .clr => t = { s with
          ERR := false, ERRCODE := .none, BUSY := true,
          PENDING := some { op := .clr, after := operation .clr s.toRegs } }
      | .command (.map c) => t = { s with
          BUSY := true, PENDING := some { op := .map c, after := operation (.map c) s.toRegs } }
      | .command (.unmap n) => t = { s with
          BUSY := true, PENDING := some { op := .unmap n, after := operation (.unmap n) s.toRegs } }

/-- 60_exceptions.md R111: any word written to `CMD` while `BUSY = 1` latches `OVERRUN` when the latch
is clear, does not cancel the running operation, and the latch survives the completion, even that of a
`CLR`. -/
def Obligations.OverrunSurvivesCompletion : Prop :=
  ∀ (s : State) (w : Word) (rest : List Input) (p : Pending),
    s.inputs = cmdWrite w :: rest → s.BUSY = true → s.PENDING = some p → s.ERR = false →
    ∃ t, step s = .next t ∧
      t = { s with
        ERR := true
        ERRCODE := .overrun
        inputs := rest
        response := some { rdata := 0, err := false } } ∧
      engineTurn t = { t with toRegs := p.after, BUSY := false, PENDING := none }

/-- 60_exceptions.md R114, R123: while `ERR = 1` a step keeps the latch and its code, unless it is a
reset edge or a `CLR` submitted while `BUSY = 0`. -/
def Obligations.OnlyClrAndResetClearTheLatch : Prop :=
  ∀ s t : State, s.ERR = true → step s = .next t →
    (t.ERR = true ∧ t.ERRCODE = s.ERRCODE) ∨ (∃ rest, s.inputs = .reset :: rest) ∨
    (∃ w rest, s.inputs = cmdWrite w :: rest ∧ decode w = .command .clr ∧ s.BUSY = false)

/-- 60_exceptions.md R110, 10_state.md R27: from an idle state with an error latched, however many
events come, as long as none is a reset or a `CLR`, the error stays and no register but `RESULT`
changes: no later `KEY`, `SCHED` or `MSG` has any effect. -/
def Obligations.ErrorFreezesTheSession : Prop :=
  ∀ (n : Nat) (s : State), s.ERR = true → s.BUSY = false → s.PENDING = none →
    (∀ x ∈ s.inputs, x ≠ .reset ∧ ∀ w, x = cmdWrite w → decode w ≠ .command .clr) →
    ∃ t : State, Sys2Proof.core.run n s = .next t ∧ t.ERR = true ∧ t.ERRCODE = s.ERRCODE ∧
      t.blankResult = s.blankResult

/-! ### Invariants and whole-machine rules -/

/-- 10_state.md R19, R22, R23, R26, R27, R29, R30, 60_exceptions.md R109: the invariant is kept by every
step from every state that has it. -/
def Obligations.StepKeepsInvariant : Prop :=
  ∀ s t : State, s.Inv → step s = .next t → t.Inv

/-- 10_state.md R44: the state after reset has the invariant. -/
def Obligations.ResetHasInvariant : Prop := State.reset.Inv

/-- 00_scope.md R10: `swap` exchanges two entries, changes nothing when they are one entry, and keeps a
permutation a permutation. -/
def Obligations.SwapExchangesTwoEntries : Prop :=
  ∀ (p : Perm) (a b : Entry),
    permAt (swap p a b) a = permAt p b ∧ permAt (swap p a b) b = permAt p a ∧
    (∀ n, n ≠ a → n ≠ b → permAt (swap p a b) n = permAt p n) ∧ swap p a a = p ∧
    (isPermutation p → isPermutation (swap p a b))

/-- 10_state.md R16, R18, R20-R24, R29-R31: outside a reset edge, each register is written only by the
completion of the operations the rules name for it. -/
def Obligations.RegistersAreWrittenOnlyByTheirOperations : Prop :=
  ∀ s t : State, s.Inv → step s = .next t → (∀ rest, s.inputs ≠ .reset :: rest) →
    t.toRegs = s.toRegs ∨
    ∃ p, s.PENDING = some p ∧ s.BUSY = true ∧ t.toRegs = p.after ∧ t.BUSY = false ∧
      match p.op with
      | .nop => False
      | .clr => t.RESULT = s.RESULT ∧ t.PHASE = .keyload
      | .key _ => t.toRegs = { s.toRegs with KEY := t.KEY, KLEN := t.KLEN }
      | .sched => t.toRegs = { s.toRegs with S := t.S, I := 0, J := 0, PHASE := .stream }
      | .msg _ => t.toRegs =
          { s.toRegs with S := t.S, I := t.I, J := t.J, OUT := t.OUT, MCOUNT := t.MCOUNT }
      | .map _ => t.toRegs = { s.toRegs with RESULT := t.RESULT }
      | .unmap _ => t.toRegs = { s.toRegs with RESULT := t.RESULT }

/-! ### Key scheduling -/

/-- 42_key_schedule.md R82, R83: on a key buffer with 1 to 32 entries, the key schedule of the machine
is the one the source states, on natural numbers. -/
def Obligations.KeyScheduleIsTheSources : Prop :=
  ∀ (key : KeyBuf) (klen : BitVec 6), 1 ≤ klen.toNat → klen.toNat ≤ 32 →
    permList (ksa key klen).1 = Source.schedule (keyList key klen) ∧ isPermutation (ksa key klen).1

/-- 42_key_schedule.md R85: keys whose symbol indices agree modulo 32 schedule alike: an index `v >= 32`
schedules as `v - 32`. -/
def Obligations.KeyIndicesCountModuloThirtyTwo : Prop :=
  ∀ (key key' : KeyBuf) (klen : BitVec 6),
    (∀ n : Entry, (keyEntry key n).toNat % 32 = (keyEntry key' n).toNat % 32) →
    ksa key klen = ksa key' klen

/-- 42_key_schedule.md R86: two keys whose cyclic extensions agree on the first 32 positions give the
same permutation, whatever their lengths, and a key of 33 or more symbols schedules as its first 32. -/
def Obligations.CyclicallyEqualKeysScheduleAlike : Prop :=
  (∀ (key key' : KeyBuf) (klen klen' : BitVec 6),
    (∀ n : Entry, keyAt key klen n = keyAt key' klen' n) → ksa key klen = ksa key' klen') ∧
  (∀ k k' : List Nat,
    (∀ n, n < 32 → k.getD (n % k.length) 0 = k'.getD (n % k'.length) 0) →
    Source.schedule k = Source.schedule k') ∧
  (∀ k : List Nat, 33 ≤ k.length → Source.schedule k = Source.schedule (k.take 32))

/-- 42_key_schedule.md R87: storing at most 32 key entries loses nothing: after `L >= 1` symbols,
`KLEN = min(L, 32)`, the stored entries are the first symbols, and the schedule reads every symbol it
would read of the whole key. -/
def Obligations.KeyBufferLosesNothing : Prop :=
  ∀ (r : Regs) (ks : List Index), r.KLEN = 0 → ks ≠ [] →
    (ks.foldl (fun r k => storeKey k r) r).KLEN.toNat = min ks.length 32 ∧
    (∀ n : Entry, n.toNat < min ks.length 32 →
      keyEntry (ks.foldl (fun r k => storeKey k r) r).KEY n = ks.getD n.toNat 0) ∧
    (∀ k : Entry,
      keyAt (ks.foldl (fun r k => storeKey k r) r).KEY (ks.foldl (fun r k => storeKey k r) r).KLEN k =
        ks.getD (k.toNat % ks.length) 0)

/-! ### Keystream and combination -/

/-- 43_keystream.md R93: `J'` uses `S[I']` before the swap; the index `t` is the same before and after
it; the keystream value is read after it, and reading before the swap would give another value whenever
`t` is one of the two swapped indices and their entries differ. -/
def Obligations.KeystreamIsReadAfterTheSwap : Prop :=
  ∀ (p : Perm) (i j : Entry),
    (prgaJ p i j).toNat = (j.toNat + (permAt p (prgaI i)).toNat) % 32 ∧
    prgaR p i j = permAt (swap p (prgaI i) (prgaJ p i j)) (prgaT p i j) ∧
    (prgaT p i j).toNat =
      ((permAt p (prgaI i)).toNat + (permAt p (prgaJ p i j)).toNat) % 32 ∧
    (permAt p (prgaI i) ≠ permAt p (prgaJ p i j) →
      (prgaT p i j = prgaI i ∨ prgaT p i j = prgaJ p i j) →
      prgaR p i j ≠ permAt p (prgaT p i j)) ∧
    (prgaT p i j ≠ prgaI i → prgaT p i j ≠ prgaJ p i j →
      prgaR p i j = permAt p (prgaT p i j))

/-- 43_keystream.md R99 (corner case): after 32 `MSG`s the index `I` is back at the value it had. -/
def Obligations.ThirtyTwoStepsReturnTheIndex : Prop :=
  ∀ (p : Perm) (i j : Entry),
    (prgaRun 32 (p, i, j)).2.1 = i ∧ (isPermutation p → isPermutation (prgaRun 32 (p, i, j)).1)

/-- 43_keystream.md R95: `Combine(m, r)` is `(m XOR r) mod 37`. -/
def Obligations.CombineIsXorModulo37 : Prop :=
  ∀ (m : Index) (r : Entry), m.toNat ≤ 36 →
    (combine m r).toNat = (m.toNat ^^^ r.toNat) % 37 ∧ (combine m r).toNat ≤ 36

/-- 43_keystream.md R96: the range facts of `Combine`. -/
def Obligations.CombineRangeFacts : Prop :=
  ∀ (m : Index) (r : Entry), m.toNat ≤ 36 →
    m.toNat ^^^ r.toNat ≤ 63 ∧
    (m.toNat < 32 → (combine m r).toNat = m.toNat ^^^ r.toNat ∧ (combine m r).toNat < 32) ∧
    (32 ≤ m.toNat → 32 ≤ m.toNat ^^^ r.toNat ∧
      ((combine m r).toNat = (m.toNat ^^^ r.toNat) - 37 ↔ 5 ≤ (m.toNat - 32) ^^^ r.toNat)) ∧
    (r.toNat = 0 → combine m r = m) ∧
    (8 ≤ r.toNat → (combine m r).toNat < 32) ∧
    (m.toNat = 32 → r.toNat = 31 → m.toNat ^^^ r.toNat = 63 ∧ (combine m r).toNat = 26)

/-- 43_keystream.md R97: for a fixed `r`, `Combine` is a bijection on 0..36 only when `r = 0`; for every
other `r` two message indices collide and some output never occurs. -/
def Obligations.CombineCollidesUnlessZero : Prop :=
  (∀ m : Index, m.toNat ≤ 36 → combine m 0 = m) ∧ combine 5 5 = 0 ∧ combine 32 5 = 0 ∧
  (∀ r : Entry, r ≠ 0 →
    (∃ m m' : Index, m.toNat ≤ 36 ∧ m'.toNat ≤ 36 ∧ m ≠ m' ∧ combine m r = combine m' r) ∧
    (∃ o : Index, o.toNat ≤ 36 ∧ ∀ m : Index, m.toNat ≤ 36 → combine m r ≠ o))

/-! ### Sessions -/

/-- 43_keystream.md R98: when every message index is below 32, applying the transform a second time with
the same key returns the message; in general it does not, as the rule's example shows. -/
def Obligations.TransformTwiceReturnsLowMessages : Prop :=
  (∀ (m k out : List Char), Source.transform m k = some out →
    (∀ c ∈ m, ∃ n, Source.indexOf c = some n ∧ n < 32) → Source.transform out k = some m) ∧
  Source.transform "5555555555".toList "key1".toList = some "qtpngz e6r".toList ∧
  Source.transform "qtpngz e6r".toList "key1".toList = some "gme2keeo5e".toList

/-- 44_session_control.md R104 (case 1), R105, 43_keystream.md R100, 00_scope.md R12: a host that runs
`TRANSFORM` from any idle state, polling any number of times, with a valid non-empty key and a valid
message, ends the session in progress and runs one whose result stands for the codes of the source's
`transform`, with `ERR = 0` and `MCOUNT` the message length modulo 2^32. When a `CLR` or a reset comes
next, that is the session's final result, whatever follows. (Scripts and sessions are the model's: log
entries 13 and 16.) -/
def Obligations.SessionComputesTransform : Prop :=
  ∀ (s : State) (k m : List (Char × Nat)) (bClr bSched : Nat) (rest : List Input) (out : List Char),
    s.BUSY = false → s.inputs = transformScript bClr k bSched m ++ rest →
    Source.transform (m.map Prod.fst) (k.map Prod.fst) = some out →
    ∃ r : SessionResult, r.outputs = out.map hostCode ∧ r.err = false ∧
      r.value = some (out.map hostCode) ∧ out.length = m.length ∧
      sessions (transformScript bClr k bSched m).length s = [{ outputs := [], err := s.ERR }, r] ∧
      ∃ t : State, Sys2Proof.core.run (transformScript bClr k bSched m).length s = .next t ∧
        t.BUSY = false ∧ t.ERR = false ∧ t.inputs = rest ∧ t.MCOUNT.toNat = m.length % 4294967296 ∧
        (startsSession t = true → ∀ n, ∃ more, more ≠ [] ∧
          sessions ((transformScript bClr k bSched m).length + 1 + n) s =
            { outputs := [], err := s.ERR } :: r :: more)

/-- 44_session_control.md R104 (case 2), 00_scope.md R12: a key with a character outside the alphabet.
(Scripts and sessions are the model's: log entries 13 and 16.) -/
def Obligations.BadKeySessionHasNoResult : Prop :=
  ∀ (s : State) (k m : List (Char × Nat)) (bClr bSched : Nat) (rest : List Input),
    s.BUSY = false → s.inputs = transformScript bClr k bSched m ++ rest →
    Source.indices (k.map Prod.fst) = none →
    (∃ r : SessionResult, r.outputs = [] ∧ r.err = true ∧ r.value = none ∧
      sessions (transformScript bClr k bSched m).length s = [{ outputs := [], err := s.ERR }, r]) ∧
    ∃ t : State, Sys2Proof.core.run (transformScript bClr k bSched m).length s = .next t ∧
      t.BUSY = false ∧ t.ERR = true ∧ t.ERRCODE = .invalidKeySymbol ∧ t.MCOUNT = 0 ∧ t.inputs = rest

/-- 44_session_control.md R104 (case 3), 00_scope.md R12: an empty key, whatever the message.
(Scripts and sessions are the model's: log entries 13 and 16.) -/
def Obligations.EmptyKeySessionHasNoResult : Prop :=
  ∀ (s : State) (m : List (Char × Nat)) (bClr bSched : Nat) (rest : List Input),
    s.BUSY = false → s.inputs = transformScript bClr [] bSched m ++ rest →
    (∃ r : SessionResult, r.outputs = [] ∧ r.err = true ∧ r.value = none ∧
      sessions (transformScript bClr [] bSched m).length s = [{ outputs := [], err := s.ERR }, r]) ∧
    ∃ t : State, Sys2Proof.core.run (transformScript bClr [] bSched m).length s = .next t ∧
      t.BUSY = false ∧ t.ERR = true ∧ t.ERRCODE = .emptyKey ∧ t.MCOUNT = 0 ∧ t.inputs = rest

/-- 44_session_control.md R104 (case 4), 00_scope.md R12: a valid key and a message whose first character
outside the alphabet stands at position `p`: the outputs before it were produced, those of the source's
`transform` of that part of the message, and the session stands for nothing. (Scripts and
sessions are the model's: log entries 13 and 16.) -/
def Obligations.BadMessageSessionHasNoResult : Prop :=
  ∀ (s : State) (k pre post : List (Char × Nat)) (bad : Char × Nat) (bClr bSched : Nat)
    (rest : List Input),
    s.BUSY = false → s.inputs = transformScript bClr k bSched (pre ++ bad :: post) ++ rest →
    k ≠ [] → (Source.indices (k.map Prod.fst)).isSome → (Source.indices (pre.map Prod.fst)).isSome →
    Source.indexOf bad.1 = none →
    (∃ (r : SessionResult) (out : List Char),
      Source.transform (pre.map Prod.fst) (k.map Prod.fst) = some out ∧
      r.outputs = out.map hostCode ∧ r.err = true ∧ r.value = none ∧
      sessions (transformScript bClr k bSched (pre ++ bad :: post)).length s =
        [{ outputs := [], err := s.ERR }, r]) ∧
    ∃ t : State, Sys2Proof.core.run (transformScript bClr k bSched (pre ++ bad :: post)).length s = .next t ∧
      t.BUSY = false ∧ t.ERR = true ∧ t.ERRCODE = .invalidMsgSymbol ∧
      t.MCOUNT.toNat = pre.length % 4294967296 ∧ t.inputs = rest

/-- 00_scope.md R12, 44_session_control.md R103: no state left by one session affects the next: two
machines in any states whatever, given the same events that begin with a reset edge or with a `CLR` that
finds both idle, show the same words of `OUT`, give the same results for that session and for every
later one, show the same errors for ever after, and agree on every register but `RESULT` whenever they
are idle. (Sessions are the model's: log entry 16.) -/
def Obligations.ClrMakesSessionsIndependent : Prop :=
  ∀ (n : Nat) (s s' : State),
    startsSession s = true → startsSession s' = true → s'.inputs = s.inputs → s.draws = s'.draws →
    outReads (n + 1) s = outReads (n + 1) s' ∧
    (∃ later, sessions (n + 1) s = { outputs := [], err := s.ERR } :: later ∧
      sessions (n + 1) s' = { outputs := [], err := s'.ERR } :: later) ∧
    ∃ t t' : State, Sys2Proof.core.run (n + 1) s = .next t ∧ Sys2Proof.core.run (n + 1) s' = .next t' ∧
      t.ERR = t'.ERR ∧ t.ERRCODE = t'.ERRCODE ∧ t.BUSY = t'.BUSY ∧
      (t.BUSY = false → t.blankResult = t'.blankResult)

/-- 43_keystream.md R99 ("Alphabet closure"), 00_scope.md R12: from every state with the invariant,
whatever the host does, every output symbol of every session is a symbol of the alphabet. (Sessions are the
model's: log entry 16.) -/
def Obligations.SessionOutputsAreOfTheAlphabet : Prop :=
  ∀ (n : Nat) (s : State), s.Inv →
    ∀ r ∈ sessions n s, ∀ c ∈ r.outputs, ∃ k : Index, k.toNat ≤ 36 ∧ lookup c = some k
end

