-- ==== Sys2Proof/Laws/State.lean ====
section
/-! SUPPORT. What each update of the state leaves in each field: the simp set of the model. A field of
`Regs` is read through `toRegs`, so one lemma about `toRegs` serves all nine. -/

namespace Sys2Proof.Machine

section Accept
variable (op : Instr) (after : Regs) (s : State)

@[simp] theorem accept_toRegs : (accept op after s).toRegs = s.toRegs := rfl
@[simp] theorem accept_BUSY : (accept op after s).BUSY = true := rfl
@[simp] theorem accept_ERR : (accept op after s).ERR = s.ERR := rfl
@[simp] theorem accept_ERRCODE : (accept op after s).ERRCODE = s.ERRCODE := rfl
@[simp] theorem accept_PENDING :
    (accept op after s).PENDING = some { op := op, after := after } := rfl
@[simp] theorem accept_inputs : (accept op after s).inputs = s.inputs := rfl
@[simp] theorem accept_response : (accept op after s).response = s.response := rfl
@[simp] theorem accept_draws : (accept op after s).draws = s.draws := rfl

end Accept

section ClearLatch
variable (s : State)

@[simp] theorem clearLatch_toRegs : (clearLatch s).toRegs = s.toRegs := rfl
@[simp] theorem clearLatch_BUSY : (clearLatch s).BUSY = s.BUSY := rfl
@[simp] theorem clearLatch_ERR : (clearLatch s).ERR = false := rfl
@[simp] theorem clearLatch_ERRCODE : (clearLatch s).ERRCODE = .none := rfl
@[simp] theorem clearLatch_PENDING : (clearLatch s).PENDING = s.PENDING := rfl
@[simp] theorem clearLatch_inputs : (clearLatch s).inputs = s.inputs := rfl
@[simp] theorem clearLatch_response : (clearLatch s).response = s.response := rfl
@[simp] theorem clearLatch_draws : (clearLatch s).draws = s.draws := rfl

end ClearLatch

section Respond
variable (r : Response) (s : State)

@[simp] theorem respond_toRegs : (respond r s).toRegs = s.toRegs := rfl
@[simp] theorem respond_BUSY : (respond r s).BUSY = s.BUSY := rfl
@[simp] theorem respond_ERR : (respond r s).ERR = s.ERR := rfl
@[simp] theorem respond_ERRCODE : (respond r s).ERRCODE = s.ERRCODE := rfl
@[simp] theorem respond_PENDING : (respond r s).PENDING = s.PENDING := rfl
@[simp] theorem respond_inputs : (respond r s).inputs = s.inputs := rfl
@[simp] theorem respond_response : (respond r s).response = some r := rfl
@[simp] theorem respond_draws : (respond r s).draws = s.draws := rfl

end Respond

section TakeInput
variable (rest : List Input) (s : State)

@[simp] theorem takeInput_toRegs : (takeInput rest s).toRegs = s.toRegs := rfl
@[simp] theorem takeInput_BUSY : (takeInput rest s).BUSY = s.BUSY := rfl
@[simp] theorem takeInput_ERR : (takeInput rest s).ERR = s.ERR := rfl
@[simp] theorem takeInput_ERRCODE : (takeInput rest s).ERRCODE = s.ERRCODE := rfl
@[simp] theorem takeInput_PENDING : (takeInput rest s).PENDING = s.PENDING := rfl
@[simp] theorem takeInput_inputs : (takeInput rest s).inputs = rest := rfl
@[simp] theorem takeInput_response : (takeInput rest s).response = none := rfl
@[simp] theorem takeInput_draws : (takeInput rest s).draws = s.draws := rfl

end TakeInput

section ResetEdge
variable (s : State)

@[simp] theorem resetEdge_toRegs : (resetEdge s).toRegs = Regs.reset := rfl
@[simp] theorem resetEdge_BUSY : (resetEdge s).BUSY = false := rfl
@[simp] theorem resetEdge_ERR : (resetEdge s).ERR = false := rfl
@[simp] theorem resetEdge_ERRCODE : (resetEdge s).ERRCODE = .none := rfl
@[simp] theorem resetEdge_PENDING : (resetEdge s).PENDING = none := rfl
@[simp] theorem resetEdge_inputs : (resetEdge s).inputs = s.inputs := rfl
@[simp] theorem resetEdge_response : (resetEdge s).response = none := rfl
@[simp] theorem resetEdge_draws : (resetEdge s).draws = s.draws := rfl

end ResetEdge

section Raise
variable (e : ErrCode) (s : State)

theorem raise_of_clear (h : s.ERR = false) : raise e s = { s with ERR := true, ERRCODE := e } := by
  simp [raise, h]

theorem raise_of_latched (h : s.ERR = true) : raise e s = s := by simp [raise, h]

@[simp] theorem raise_toRegs : (raise e s).toRegs = s.toRegs := by unfold raise; split <;> rfl
@[simp] theorem raise_BUSY : (raise e s).BUSY = s.BUSY := by unfold raise; split <;> rfl
@[simp] theorem raise_ERR : (raise e s).ERR = true := by
  unfold raise; split
  · assumption
  · rfl
@[simp] theorem raise_ERRCODE :
    (raise e s).ERRCODE = if s.ERR then s.ERRCODE else e := by unfold raise; split <;> rfl
@[simp] theorem raise_PENDING : (raise e s).PENDING = s.PENDING := by unfold raise; split <;> rfl
@[simp] theorem raise_inputs : (raise e s).inputs = s.inputs := by unfold raise; split <;> rfl
@[simp] theorem raise_response : (raise e s).response = s.response := by unfold raise; split <;> rfl
@[simp] theorem raise_draws : (raise e s).draws = s.draws := by unfold raise; split <;> rfl

end Raise

section Complete
variable (s : State)

@[simp] theorem complete_BUSY : (complete s).BUSY = false := by unfold complete; split <;> rfl
@[simp] theorem complete_ERR : (complete s).ERR = s.ERR := by unfold complete; split <;> rfl
@[simp] theorem complete_ERRCODE : (complete s).ERRCODE = s.ERRCODE := by
  unfold complete; split <;> rfl
@[simp] theorem complete_PENDING : (complete s).PENDING = none := by
  unfold complete; split
  · rfl
  · assumption
@[simp] theorem complete_inputs : (complete s).inputs = s.inputs := by unfold complete; split <;> rfl
@[simp] theorem complete_response : (complete s).response = s.response := by
  unfold complete; split <;> rfl
@[simp] theorem complete_draws : (complete s).draws = s.draws := by unfold complete; split <;> rfl

end Complete

section Reset

@[simp] theorem State.reset_toRegs : State.reset.toRegs = Regs.reset := rfl
@[simp] theorem State.reset_BUSY : State.reset.BUSY = false := rfl
@[simp] theorem State.reset_ERR : State.reset.ERR = false := rfl
@[simp] theorem State.reset_ERRCODE : State.reset.ERRCODE = .none := rfl
@[simp] theorem State.reset_PENDING : State.reset.PENDING = none := rfl
@[simp] theorem State.reset_inputs : State.reset.inputs = [] := rfl
@[simp] theorem State.reset_response : State.reset.response = none := rfl

end Reset

section WithFetchWord
variable (s : State) (nbits w : Nat)

@[simp] theorem withFetchWord_toRegs : (s.withFetchWord nbits w).toRegs = s.toRegs := rfl
@[simp] theorem withFetchWord_BUSY : (s.withFetchWord nbits w).BUSY = s.BUSY := rfl
@[simp] theorem withFetchWord_ERR : (s.withFetchWord nbits w).ERR = s.ERR := rfl
@[simp] theorem withFetchWord_ERRCODE : (s.withFetchWord nbits w).ERRCODE = s.ERRCODE := rfl
@[simp] theorem withFetchWord_PENDING : (s.withFetchWord nbits w).PENDING = s.PENDING := rfl
@[simp] theorem withFetchWord_inputs :
    (s.withFetchWord nbits w).inputs = cmdWrite (BitVec.ofNat 32 (w % 2 ^ nbits)) :: s.inputs := rfl
@[simp] theorem withFetchWord_response : (s.withFetchWord nbits w).response = s.response := rfl
@[simp] theorem withFetchWord_draws : (s.withFetchWord nbits w).draws = s.draws := rfl

end WithFetchWord

section Effects
variable (r : Regs)

@[simp] theorem clearSession_RESULT : (clearSession r).RESULT = r.RESULT := rfl
@[simp] theorem clearSession_S : (clearSession r).S = identityPerm := rfl
@[simp] theorem clearSession_I : (clearSession r).I = 0#5 := rfl
@[simp] theorem clearSession_J : (clearSession r).J = 0#5 := rfl
@[simp] theorem clearSession_KEY : (clearSession r).KEY = Vector.replicate 32 0#6 := rfl
@[simp] theorem clearSession_KLEN : (clearSession r).KLEN = 0#6 := rfl
@[simp] theorem clearSession_PHASE : (clearSession r).PHASE = .keyload := rfl
@[simp] theorem clearSession_OUT : (clearSession r).OUT = 0#32 := rfl
@[simp] theorem clearSession_MCOUNT : (clearSession r).MCOUNT = 0#32 := rfl

@[simp] theorem storeKey_S (k : Index) : (storeKey k r).S = r.S := by unfold storeKey; split <;> rfl
@[simp] theorem storeKey_I (k : Index) : (storeKey k r).I = r.I := by unfold storeKey; split <;> rfl
@[simp] theorem storeKey_J (k : Index) : (storeKey k r).J = r.J := by unfold storeKey; split <;> rfl
@[simp] theorem storeKey_PHASE (k : Index) : (storeKey k r).PHASE = r.PHASE := by
  unfold storeKey; split <;> rfl
@[simp] theorem storeKey_OUT (k : Index) : (storeKey k r).OUT = r.OUT := by
  unfold storeKey; split <;> rfl
@[simp] theorem storeKey_RESULT (k : Index) : (storeKey k r).RESULT = r.RESULT := by
  unfold storeKey; split <;> rfl
@[simp] theorem storeKey_MCOUNT (k : Index) : (storeKey k r).MCOUNT = r.MCOUNT := by
  unfold storeKey; split <;> rfl

/-- The key schedule is the run of its 32 steps. -/
theorem ksa_eq (key : KeyBuf) (klen : BitVec 6) : ksa key klen = ksaRun key klen 32 := by
  unfold ksa; rfl

variable (seed : Config.PrgaJSeed)

@[simp] theorem schedule_S : (schedule seed r).S = (ksa r.KEY r.KLEN).1 := rfl
@[simp] theorem schedule_I : (schedule seed r).I = 0#5 := rfl
@[simp] theorem schedule_J : (schedule seed r).J = seedJ seed (ksa r.KEY r.KLEN).2 := rfl
@[simp] theorem schedule_KEY : (schedule seed r).KEY = r.KEY := rfl
@[simp] theorem schedule_KLEN : (schedule seed r).KLEN = r.KLEN := rfl
@[simp] theorem schedule_PHASE : (schedule seed r).PHASE = .stream := rfl
@[simp] theorem schedule_OUT : (schedule seed r).OUT = r.OUT := rfl
@[simp] theorem schedule_RESULT : (schedule seed r).RESULT = r.RESULT := rfl
@[simp] theorem schedule_MCOUNT : (schedule seed r).MCOUNT = r.MCOUNT := rfl

variable (m : Index)

@[simp] theorem encryptSymbol_S : (encryptSymbol m r).S = prgaS r.S r.I r.J := rfl
@[simp] theorem encryptSymbol_I : (encryptSymbol m r).I = prgaI r.I := rfl
@[simp] theorem encryptSymbol_J : (encryptSymbol m r).J = prgaJ r.S r.I r.J := rfl
@[simp] theorem encryptSymbol_KEY : (encryptSymbol m r).KEY = r.KEY := rfl
@[simp] theorem encryptSymbol_KLEN : (encryptSymbol m r).KLEN = r.KLEN := rfl
@[simp] theorem encryptSymbol_PHASE : (encryptSymbol m r).PHASE = r.PHASE := rfl
@[simp] theorem encryptSymbol_OUT : (encryptSymbol m r).OUT =
    outWord (prgaR r.S r.I r.J) (combine m (prgaR r.S r.I r.J))
      (unmap (combine m (prgaR r.S r.I r.J))) := rfl
@[simp] theorem encryptSymbol_RESULT : (encryptSymbol m r).RESULT = r.RESULT := rfl
@[simp] theorem encryptSymbol_MCOUNT : (encryptSymbol m r).MCOUNT = r.MCOUNT + 1 := rfl

variable (w : Word)

@[simp] theorem storeResult_S : (storeResult w r).S = r.S := rfl
@[simp] theorem storeResult_I : (storeResult w r).I = r.I := rfl
@[simp] theorem storeResult_J : (storeResult w r).J = r.J := rfl
@[simp] theorem storeResult_KEY : (storeResult w r).KEY = r.KEY := rfl
@[simp] theorem storeResult_KLEN : (storeResult w r).KLEN = r.KLEN := rfl
@[simp] theorem storeResult_PHASE : (storeResult w r).PHASE = r.PHASE := rfl
@[simp] theorem storeResult_OUT : (storeResult w r).OUT = r.OUT := rfl
@[simp] theorem storeResult_RESULT : (storeResult w r).RESULT = w := rfl
@[simp] theorem storeResult_MCOUNT : (storeResult w r).MCOUNT = r.MCOUNT := rfl

end Effects

end Sys2Proof.Machine
end

