-- ==== Sys2Proof/Laws/Ops.lean ====
section
/-! SUPPORT. One lemma for each shared operation that says everything it can do: the permutation's
reads and writes, the key buffer's, the checks of R108, the engine's turn and the write's response. -/

namespace Sys2Proof.Machine

/-! ### The permutation -/

/-- A read after a write: the written entry reads as written, every other as before. -/
theorem permAt_permSet (p : Perm) (a n v : Entry) :
    permAt (permSet p a v) n = if n = a then v else permAt p n := by
  unfold permAt permSet
  rw [Vector.getElem_set]
  by_cases h : n = a
  · simp [h]
  · have h' : a.toNat ≠ n.toNat := fun e => h (BitVec.eq_of_toNat_eq e.symm)
    simp [h, h']

/-- Every entry after a swap. -/
theorem permAt_swap (p : Perm) (a b n : Entry) :
    permAt (swap p a b) n = if n = b then permAt p a else if n = a then permAt p b else permAt p n := by
  simp [swap, permAt_permSet]

/-- Two permutations with the same entries are the same. -/
theorem perm_ext (p q : Perm) (h : ∀ n, permAt p n = permAt q n) : p = q := by
  apply Vector.ext
  intro i hi
  have hn : (BitVec.ofNat 5 i).toNat = i := by simp; omega
  simpa [permAt, hn] using h (BitVec.ofNat 5 i)

/-- The identity permutation holds `n` at `n`. -/
@[simp] theorem permAt_identityPerm (n : Entry) : permAt identityPerm n = n := by
  simp [permAt, identityPerm]

/-! ### The key buffer -/

/-- What a stored symbol leaves in the buffer and the count, while there is room. -/
theorem storeKey_of_room (k : Index) (r : Regs) (h : r.KLEN.toNat < 32) :
    storeKey k r = { r with KEY := r.KEY.set r.KLEN.toNat k h, KLEN := r.KLEN + 1 } := by
  simp [storeKey, h]

/-- A full buffer stores nothing. -/
theorem storeKey_of_full (k : Index) (r : Regs) (h : 32 ≤ r.KLEN.toNat) : storeKey k r = r := by
  simp [storeKey, show ¬ r.KLEN.toNat < 32 by omega]

/-! ### The checks of R108 -/

@[simp] theorem whenIdle_busy (s : State) (o : StepResult) (h : s.BUSY = true) :
    whenIdle s o = .next (raise .overrun s) := by simp [whenIdle, h]

@[simp] theorem whenIdle_idle (s : State) (o : StepResult) (h : s.BUSY = false) :
    whenIdle s o = o := by simp [whenIdle, h]

@[simp] theorem whenClear_latched (s : State) (o : StepResult) (h : s.ERR = true) :
    whenClear s o = .next s := by simp [whenClear, h]

@[simp] theorem whenClear_clear (s : State) (o : StepResult) (h : s.ERR = false) :
    whenClear s o = o := by simp [whenClear, h]

@[simp] theorem whenPhase_same (p : Phase) (s : State) (o : StepResult) (h : s.PHASE = p) :
    whenPhase p s o = o := by simp [whenPhase, h]

@[simp] theorem whenPhase_other (p : Phase) (s : State) (o : StepResult) (h : s.PHASE ≠ p) :
    whenPhase p s o = .next (raise .sequence s) := by simp [whenPhase, h]

/-! ### The engine and the bus -/

/-- The engine's turn with an operation pending. -/
theorem engineTurn_pending (s : State) (p : Pending) (hb : s.BUSY = true) (hp : s.PENDING = some p) :
    engineTurn s = { s with toRegs := p.after, BUSY := false, PENDING := none } := by
  simp [engineTurn, complete, hb, hp]

/-- The engine has no turn to take while `BUSY = 0`. -/
theorem engineTurn_idle (s : State) (hb : s.BUSY = false) : engineTurn s = s := by
  simp [engineTurn, hb]

@[simp] theorem engineTurn_BUSY (s : State) : (engineTurn s).BUSY = false := by
  unfold engineTurn; split
  · simp
  · simpa using ‹¬ s.BUSY = true›

@[simp] theorem engineTurn_ERR (s : State) : (engineTurn s).ERR = s.ERR := by
  unfold engineTurn; split <;> simp

@[simp] theorem engineTurn_ERRCODE (s : State) : (engineTurn s).ERRCODE = s.ERRCODE := by
  unfold engineTurn; split <;> simp

@[simp] theorem engineTurn_inputs (s : State) : (engineTurn s).inputs = s.inputs := by
  unfold engineTurn; split <;> simp

@[simp] theorem engineTurn_response (s : State) : (engineTurn s).response = s.response := by
  unfold engineTurn; split <;> simp

@[simp] theorem engineTurn_draws (s : State) : (engineTurn s).draws = s.draws := by
  unfold engineTurn; split <;> simp

/-- A write's response is given exactly when its command was decided. -/
theorem answerOk_eq_next (o : StepResult) (t : State) :
    answerOk o = .next t ↔ ∃ u, o = .next u ∧ t = respond okWrite u := by
  cases o with
  | next u => simp [answerOk, eq_comm]
  | fault f => cases f
  | refused r => simp [answerOk]

@[simp] theorem answerOk_next (s : State) : answerOk (.next s) = .next (respond okWrite s) := rfl

end Sys2Proof.Machine
end

