-- ==== Sys2Proof/Laws/Exec.lean ====
section
/-! SUPPORT. What submitting a command can do, said once: it is discarded or ignored, it raises an
error, or it is accepted with its operation pending. -/

namespace Sys2Proof.Machine

/-- The latch as acceptance leaves it: `CLR` clears it, no other command touches it (R108 step 7). -/
def acceptLatch (i : Instr) (s : State) : State :=
  match i with
  | .clr => clearLatch s
  | .nop => s
  | .key _ => s
  | .sched => s
  | .msg _ => s
  | .map _ => s
  | .unmap _ => s

/-- Everything `exec` can do: it always answers a next state, which is the state as it was (`NOP`, or a
session command while `ERR = 1`), the state with an error raised, or an acceptance. -/
theorem exec_cases (i : Instr) (s : State) :
    ∃ t, exec i s = .next t ∧
      ((t = s ∧ s.BUSY = false ∧ (i = .nop ∨ s.ERR = true)) ∨
       (∃ e, e ≠ .none ∧ t = raise e s) ∨
       (s.BUSY = false ∧ admits s.toRegs i ∧ (i = .clr ∨ (∃ c, i = .map c) ∨ (∃ n, i = .unmap n) ∨
          s.ERR = false) ∧
        t = accept i (operation i s.toRegs) (acceptLatch i s))) := by
  cases hb : s.BUSY with
  | true =>
    refine ⟨raise .overrun s, ?_, .inr (.inl ⟨.overrun, by simp, rfl⟩)⟩
    cases i <;> simp [exec, execNop, execClr, execKey, execSched, execMsg, execMap, execUnmap, hb]
  | false =>
    cases i with
    | nop => exact ⟨s, by simp [exec, execNop, hb], .inl ⟨rfl, rfl, .inl rfl⟩⟩
    | clr =>
      exact ⟨_, by simp only [exec, execClr, whenIdle_idle _ _ hb]; rfl,
        .inr (.inr ⟨rfl, trivial, .inl rfl, rfl⟩)⟩
    | map c =>
      exact ⟨_, by simp only [exec, execMap, whenIdle_idle _ _ hb]; rfl,
        .inr (.inr ⟨rfl, trivial, .inr (.inl ⟨c, rfl⟩), rfl⟩)⟩
    | unmap n =>
      exact ⟨_, by simp only [exec, execUnmap, whenIdle_idle _ _ hb]; rfl,
        .inr (.inr ⟨rfl, trivial, .inr (.inr (.inl ⟨n, rfl⟩)), rfl⟩)⟩
    | key c =>
      cases he : s.ERR with
      | true => exact ⟨s, by simp [exec, execKey, hb, he], .inl ⟨rfl, rfl, .inr rfl⟩⟩
      | false =>
        by_cases hp : s.PHASE = .keyload
        · cases hl : symbolOperand c with
          | none =>
            exact ⟨raise .invalidKeySymbol s, by simp [exec, execKey, hb, he, hp, hl],
              .inr (.inl ⟨.invalidKeySymbol, by simp, rfl⟩)⟩
          | some k =>
            exact ⟨accept (.key c) (operation (.key c) s.toRegs) s,
              by simp [exec, execKey, hb, he, hp, hl, operation],
              .inr (.inr ⟨rfl, ⟨hp, by simp [hl]⟩, by simp, rfl⟩)⟩
        · exact ⟨raise .sequence s, by simp [exec, execKey, hb, he, hp],
            .inr (.inl ⟨.sequence, by simp, rfl⟩)⟩
    | sched =>
      cases he : s.ERR with
      | true => exact ⟨s, by simp [exec, execSched, hb, he], .inl ⟨rfl, rfl, .inr rfl⟩⟩
      | false =>
        by_cases hp : s.PHASE = .keyload
        · by_cases hk : s.KLEN = 0#6
          · exact ⟨raise .emptyKey s, by simp [exec, execSched, hb, he, hp, hk],
              .inr (.inl ⟨.emptyKey, by simp, rfl⟩)⟩
          · exact ⟨accept .sched (operation .sched s.toRegs) s,
              by simp [exec, execSched, hb, he, hp, hk, operation],
              .inr (.inr ⟨rfl, ⟨hp, hk⟩, by simp, rfl⟩)⟩
        · exact ⟨raise .sequence s, by simp [exec, execSched, hb, he, hp],
            .inr (.inl ⟨.sequence, by simp, rfl⟩)⟩
    | msg c =>
      cases he : s.ERR with
      | true => exact ⟨s, by simp [exec, execMsg, hb, he], .inl ⟨rfl, rfl, .inr rfl⟩⟩
      | false =>
        by_cases hp : s.PHASE = .stream
        · cases hl : symbolOperand c with
          | none =>
            exact ⟨raise .invalidMsgSymbol s, by simp [exec, execMsg, hb, he, hp, hl],
              .inr (.inl ⟨.invalidMsgSymbol, by simp, rfl⟩)⟩
          | some m =>
            exact ⟨accept (.msg c) (operation (.msg c) s.toRegs) s,
              by simp [exec, execMsg, hb, he, hp, hl, operation],
              .inr (.inr ⟨rfl, ⟨hp, by simp [hl]⟩, by simp, rfl⟩)⟩
        · exact ⟨raise .sequence s, by simp [exec, execMsg, hb, he, hp],
            .inr (.inl ⟨.sequence, by simp, rfl⟩)⟩

/-- Everything a `CMD` write can do: the word is illegal and an error is raised, or its command is
executed. -/
theorem submitCommand_cases (w : Word) (s : State) :
    (∃ why, decode w = .illegal why ∧
      submitCommand w s = .next (raise (if s.BUSY then .overrun else .illegalCmd) s)) ∨
    (∃ i, decode w = .command i ∧ submitCommand w s = exec i s) := by
  cases hd : decode w with
  | command i => exact .inr ⟨i, rfl, by simp [submitCommand, hd]⟩
  | illegal why =>
    refine .inl ⟨why, rfl, ?_⟩
    simp only [submitCommand, hd, rejectIllegal]
    cases hb : s.BUSY <;> simp [hb]

end Sys2Proof.Machine
end

