-- ==== Sys2Proof/Laws/Flags.lean ====
section
/-! SUPPORT. The words that carry flags and fields, as numbers and field by field. -/

namespace Sys2Proof.Machine

/-- A concatenation as a number. -/
theorem toNat_append_add {m n : Nat} (x : BitVec m) (y : BitVec n) :
    (x ++ y).toNat = x.toNat * 2 ^ n + y.toNat := by
  rw [BitVec.toNat_append, ← Nat.shiftLeft_add_eq_or_of_lt y.isLt, Nat.shiftLeft_eq]

/-- A `MSG` result as a number (R36). -/
theorem outWord_toNat (ks : Entry) (idx : Index) (sym : Code) :
    (outWord ks idx sym).toNat =
      2147483648 + 65536 * ks.toNat + 256 * idx.toNat + sym.toNat := by
  simp only [outWord, toNat_append_add, BitVec.toNat_ofNat]; omega

/-- `OUT.SYM` of a `MSG` result (R36). -/
@[simp] theorem outSym_outWord (ks : Entry) (idx : Index) (sym : Code) :
    outSym (outWord ks idx sym) = sym := by
  apply BitVec.eq_of_toNat_eq
  have := outWord_toNat ks idx sym
  have := sym.isLt
  simp only [outSym, BitVec.extractLsb'_toNat, Nat.shiftRight_eq_div_pow]; omega

/-- `OUT.IDX` of a `MSG` result (R36). -/
@[simp] theorem outIdx_outWord (ks : Entry) (idx : Index) (sym : Code) :
    outIdx (outWord ks idx sym) = idx := by
  apply BitVec.eq_of_toNat_eq
  have := outWord_toNat ks idx sym
  have := sym.isLt
  have := idx.isLt
  simp only [outIdx, BitVec.extractLsb'_toNat, Nat.shiftRight_eq_div_pow]; omega

/-- `OUT.KS` of a `MSG` result (R36). -/
@[simp] theorem outKs_outWord (ks : Entry) (idx : Index) (sym : Code) :
    outKs (outWord ks idx sym) = ks := by
  apply BitVec.eq_of_toNat_eq
  have := outWord_toNat ks idx sym
  have := sym.isLt
  have := idx.isLt
  have := ks.isLt
  simp only [outKs, BitVec.extractLsb'_toNat, Nat.shiftRight_eq_div_pow]; omega

/-- `OUT.VALID` of a `MSG` result (R36). -/
@[simp] theorem outValid_outWord (ks : Entry) (idx : Index) (sym : Code) :
    outValid (outWord ks idx sym) = true := by
  have := outWord_toNat ks idx sym
  have := sym.isLt
  have := idx.isLt
  have := ks.isLt
  simp only [outValid, BitVec.getLsbD, Nat.testBit_eq_decide_div_mod_eq, decide_eq_true_eq]; omega

/-- A successful lookup's `RESULT` as a number (R37). -/
theorem foundWord_toNat (v : Byte) : (foundWord v).toNat = 256 + v.toNat := by
  simp only [foundWord, toNat_append_add, BitVec.toNat_ofNat]; omega

/-- `IJ` as a number (R39). -/
theorem ijWord_toNat (i j : Entry) : (ijWord i j).toNat = i.toNat + 256 * j.toNat := by
  simp only [ijWord, toNat_append_add, BitVec.toNat_ofNat]; omega

/-- `STATUS` as a number (R35). -/
theorem statusWord_toNat (s : State) :
    (statusWord s).toNat = s.BUSY.toNat + 2 * s.ERR.toNat + 4 * (phaseBit s.PHASE).toNat +
      16 * (errCodeBits s.ERRCODE).toNat + 256 * s.KLEN.toNat := by
  simp only [statusWord, toNat_append_add, BitVec.toNat_ofNat, BitVec.toNat_ofBool]; omega

/-- The reserved bits of a `MSG` result are zero (R36). -/
theorem outWord_reserved (ks : Entry) (idx : Index) (sym : Code) :
    outWord ks idx sym &&& ~~~outFields = 0#32 := by
  apply BitVec.eq_of_getLsbD_eq
  intro i hi
  simp only [outWord, outFields, BitVec.getLsbD_and, BitVec.getLsbD_not, BitVec.getLsbD_append]
  interval_cases i <;> simp

/-- What a read of `OUT` shows: its four fields, and zeros between them (R36, R42). -/
theorem out_masked (w : Word) :
    w &&& outFields = BitVec.ofBool (outValid w) ++ 0#10 ++ outKs w ++ 0#2 ++ outIdx w ++ outSym w := by
  apply BitVec.eq_of_getLsbD_eq
  intro i hi
  simp only [outFields, outSym, outIdx, outKs, outValid, BitVec.getLsbD_and, BitVec.getLsbD_append,
    BitVec.getLsbD_extractLsb']
  interval_cases i <;> simp

/-- What a read of `RESULT` shows: its two fields below zeros (R37, R42). -/
theorem result_masked (w : Word) :
    w &&& resultFields = 0#23 ++ BitVec.ofBool (resultFound w) ++ resultValue w := by
  apply BitVec.eq_of_getLsbD_eq
  intro i hi
  simp only [resultFields, resultValue, resultFound, BitVec.getLsbD_and, BitVec.getLsbD_append,
    BitVec.getLsbD_extractLsb']
  interval_cases i <;> simp

/-- A value zero-extended over a mask of its width keeps no bit outside the mask. -/
theorem zext_masked {m n : Nat} (x : BitVec n) :
    (0#m ++ x) &&& ~~~(0#m ++ BitVec.allOnes n) = 0#(m + n) := by
  apply BitVec.eq_of_getLsbD_eq
  intro i hi
  simp only [BitVec.getLsbD_and, BitVec.getLsbD_not, BitVec.getLsbD_append, BitVec.getLsbD_allOnes]
  by_cases h : i < n <;> simp [h]

/-- All that `ID` and `STATUS` do not fix is unspecified while busy: no other register has a bit that is
both defined and nonzero (R42, R43). -/
theorem regValue_masked (r : Reg) (s : State) (hi : r ≠ .id) (hs : r ≠ .status) :
    regValue r s &&& ~~~unspecifiedBits r = 0#32 := by
  cases r with
  | id => exact absurd rfl hi
  | status => exact absurd rfl hs
  | cmd => simp [regValue]
  | out => simp only [regValue, unspecifiedBits, BitVec.and_assoc]; simp
  | result => simp only [regValue, unspecifiedBits, BitVec.and_assoc]; simp
  | mcount => simp [regValue, unspecifiedBits]
  | ij =>
    apply BitVec.eq_of_getLsbD_eq
    intro i hi
    simp only [regValue, ijWord, unspecifiedBits, BitVec.getLsbD_and, BitVec.getLsbD_not,
      BitVec.getLsbD_append]
    interval_cases i <;> simp
  | state n => exact zext_masked (m := 27) (permAt s.S n)
  | keybuf n => exact zext_masked (m := 26) s.KEY[n.toNat]

end Sys2Proof.Machine
end

