-- ==== Sys2Proof/Laws/PerInstr.lean ====
section
/-! SUPPORT. Families of lemmas with one lemma for each command: what the encoder puts in the fields of
`CMD32`. -/

namespace Sys2Proof.Laws.EncodedFields

/-- The word a command is encoded as has zero reserved bits, the command's opcode and its operand in
their fields, and is well formed (30_encoding.md R66, R69). -/
def Statement (i : Instr) : Prop :=
  rsvdField (encode i) = 0#20 ∧ opField (encode i) = opcode i ∧ argField (encode i) = operand i

/-- A word of the three fields, as a number. -/
theorem toNat_fields (o : BitVec 4) (a : BitVec 8) :
    ((0#20 ++ o) ++ a).toNat = o.toNat * 256 + a.toNat := by
  rw [BitVec.toNat_append, BitVec.toNat_append, ← Nat.shiftLeft_add_eq_or_of_lt a.isLt]
  simp [Nat.shiftLeft_eq]

/-- The fields of a concatenation of the three fields. -/
theorem fields_of_append (o : BitVec 4) (a : BitVec 8) :
    rsvdField ((0#20 ++ o) ++ a) = 0#20 ∧ opField ((0#20 ++ o) ++ a) = o ∧
      argField ((0#20 ++ o) ++ a) = a := by
  have hn := toNat_fields o a
  have ho := o.isLt
  have ha := a.isLt
  refine ⟨?_, ?_, ?_⟩ <;> apply BitVec.eq_of_toNat_eq <;>
    simp only [rsvdField, opField, argField, BitVec.extractLsb'_toNat, hn,
      Nat.shiftRight_eq_div_pow, BitVec.toNat_ofNat] <;> omega

theorem nop : Statement .nop := fields_of_append _ _
theorem clr : Statement .clr := fields_of_append _ _
theorem key (c : Code) : Statement (.key c) := fields_of_append _ _
theorem sched : Statement .sched := fields_of_append _ _
theorem msg (c : Code) : Statement (.msg c) := fields_of_append _ _
theorem map (c : Code) : Statement (.map c) := fields_of_append _ _
theorem unmap (n : Byte) : Statement (.unmap n) := fields_of_append _ _

end Sys2Proof.Laws.EncodedFields
end

