-- ==== Sys2Proof/Laws/Step.lean ====
section
/-! SUPPORT. What one step can do, by the event at the head of the events to come. -/

namespace Sys2Proof.Machine

theorem step_empty (s : State) (h : s.inputs = []) :
    step s = .next (engineTurn (takeInput [] s)) := by simp [step, h]

theorem step_engine (s : State) (rest : List Input) (h : s.inputs = .engine :: rest) :
    step s = .next (engineTurn (takeInput rest s)) := by simp [step, h]

theorem step_reset (s : State) (rest : List Input) (h : s.inputs = .reset :: rest) :
    step s = .next (resetEdge (takeInput rest s)) := by simp [step, h]

theorem step_read (s : State) (rest : List Input) (off : Offset) (size : AccessSize)
    (h : s.inputs = .request (.read off size) :: rest) :
    step s = .next (memRead off size (takeInput rest s)) := by simp [step, h, serve]

theorem step_write (s : State) (rest : List Input) (off : Offset) (size : AccessSize) (v : Word)
    (h : s.inputs = .request (.write off size v) :: rest) :
    step s = memWrite off size v (takeInput rest s) := by simp [step, h, serve]

/-- A read while `BUSY = 0` is exact (R47). -/
theorem readWord_idle (r : Reg) (s : State) (h : s.BUSY = false) : readWord r s = regValue r s := by
  simp [readWord, h]

/-- A read while `BUSY = 1` takes its unspecified bits from the draw, the rest from the register (R43). -/
theorem readWord_busy (r : Reg) (s : State) (h : s.BUSY = true) :
    readWord r s = (regValue r s &&& ~~~unspecifiedBits r) |||
      (Config.busyRead s.draws &&& unspecifiedBits r) := by
  simp [readWord, h]

/-- A read changes nothing but the response and the draw counter. -/
theorem memRead_cases (off : Offset) (size : AccessSize) (s : State) :
    (accessed off size = none ∧ memRead off size s = respond errorResponse s) ∨
    (∃ r, accessed off size = some r ∧
      memRead off size s =
        respond (okRead (readWord r s)) { s with draws := s.draws + drawsOf r s }) := by
  cases h : accessed off size with
  | none => exact .inl ⟨rfl, by simp [memRead, h]⟩
  | some r => exact .inr ⟨r, rfl, by simp [memRead, h]⟩

/-- A write is refused, submits a command, or is ignored. -/
theorem memWrite_cases (off : Offset) (size : AccessSize) (v : Word) (s : State) :
    (accessed off size = none ∧ memWrite off size v s = .next (respond errorResponse s)) ∨
    (accessed off size = some .cmd ∧ memWrite off size v s = answerOk (submitCommand v s)) ∨
    (∃ r, r ≠ .cmd ∧ accessed off size = some r ∧
      memWrite off size v s = .next (respond okWrite s)) := by
  cases h : accessed off size with
  | none => exact .inl ⟨rfl, by simp [memWrite, h]⟩
  | some r =>
    by_cases hc : r = .cmd
    · exact .inr (.inl ⟨by rw [hc], by simp [memWrite, h, hc]⟩)
    · refine .inr (.inr ⟨r, hc, rfl, ?_⟩)
      cases r <;> simp_all [memWrite]

@[simp] theorem accessed_cmd : accessed 4#12 .word = some .cmd := by decide

/-- A step on a `CMD` write submits its word. -/
theorem step_cmdWrite (s : State) (rest : List Input) (w : Word)
    (h : s.inputs = cmdWrite w :: rest) :
    step s = answerOk (submitCommand w (takeInput rest s)) := by
  rw [step_write s rest 4#12 .word w h]
  simp [memWrite]

/-- Only a write at the offset of `CMD`, 4 bytes wide, submits a command. -/
theorem accessed_eq_cmd (off : Offset) (size : AccessSize) :
    accessed off size = some .cmd ↔ off = 4#12 ∧ size = .word := by
  refine ⟨fun h => ?_, fun ⟨ho, hs⟩ => by rw [ho, hs, accessed_cmd]⟩
  simp only [accessed] at h
  split_ifs at h with h1 h2
  refine ⟨?_, by simpa using h1⟩
  simp only [regAt] at h
  split_ifs at h <;> simp at h
  exact BitVec.eq_of_toNat_eq (by simpa using ‹off.toNat = _›)

/-- A state in which a transaction changed nothing of SC32: only the events to come, the response and
the draw counter may differ. -/
def Untouched (s t : State) : Prop :=
  t.toRegs = s.toRegs ∧ t.BUSY = s.BUSY ∧ t.ERR = s.ERR ∧ t.ERRCODE = s.ERRCODE ∧
    t.PENDING = s.PENDING

/-- Everything one step can do: the engine's turn, a reset edge, the submission of a command word, or a
transaction that changes nothing of SC32. -/
theorem step_cases (s : State) :
    (∃ rest, (s.inputs = .engine :: rest ∨ (s.inputs = [] ∧ rest = [])) ∧
      step s = .next (engineTurn (takeInput rest s))) ∨
    (∃ rest, s.inputs = .reset :: rest ∧ step s = .next (resetEdge (takeInput rest s))) ∨
    (∃ w rest, s.inputs = cmdWrite w :: rest ∧
      step s = answerOk (submitCommand w (takeInput rest s))) ∨
    (∃ r rest t, s.inputs = .request r :: rest ∧ (∀ w, Input.request r ≠ cmdWrite w) ∧
      step s = .next t ∧ Untouched s t ∧ t.inputs = rest) := by
  match hi : s.inputs with
  | [] => exact .inl ⟨[], .inr ⟨rfl, rfl⟩, step_empty s hi⟩
  | .engine :: rest => exact .inl ⟨rest, .inl rfl, step_engine s rest hi⟩
  | .reset :: rest => exact .inr (.inl ⟨rest, rfl, step_reset s rest hi⟩)
  | .request (.read off size) :: rest =>
    refine .inr (.inr (.inr ⟨.read off size, rest, _, rfl, by simp [cmdWrite],
      step_read s rest off size hi, ?_⟩))
    rcases memRead_cases off size (takeInput rest s) with ⟨_, e⟩ | ⟨r, _, e⟩ <;> rw [e] <;>
      exact ⟨⟨rfl, rfl, rfl, rfl, rfl⟩, rfl⟩
  | .request (.write off size v) :: rest =>
    rw [step_write s rest off size v hi]
    rcases memWrite_cases off size v (takeInput rest s) with ⟨hn, e⟩ | ⟨hc, e⟩ | ⟨r, hr, hn, e⟩
    · refine .inr (.inr (.inr ⟨_, rest, _, rfl, fun w h => ?_, e, ⟨rfl, rfl, rfl, rfl, rfl⟩, rfl⟩))
      simp only [cmdWrite, Input.request.injEq, BusRequest.write.injEq] at h
      rw [(accessed_eq_cmd off size).2 ⟨h.1, h.2.1⟩] at hn
      cases hn
    · obtain ⟨rfl, rfl⟩ := (accessed_eq_cmd off size).1 hc
      exact .inr (.inr (.inl ⟨v, rest, rfl, e⟩))
    · refine .inr (.inr (.inr ⟨_, rest, _, rfl, fun w h => ?_, e, ⟨rfl, rfl, rfl, rfl, rfl⟩, rfl⟩))
      simp only [cmdWrite, Input.request.injEq, BusRequest.write.injEq] at h
      rw [(accessed_eq_cmd off size).2 ⟨h.1, h.2.1⟩] at hn
      exact absurd (Option.some.inj hn).symm hr

/-! ### Runs -/

@[simp] theorem run_zero (s : State) : Sys2Proof.core.run 0 s = .next s := rfl

/-- The first step of a run. -/
theorem run_succ (k : Nat) (s t : State) (h : step s = .next t) :
    Sys2Proof.core.run (k + 1) s = Sys2Proof.core.run k t := by
  have h' : Sys2Proof.core.step s = .next t := h
  simp only [Host.Core.run, h']

/-- Two runs in a row are one run. -/
theorem run_add (j k : Nat) (s t : State) (h : Sys2Proof.core.run j s = .next t) :
    Sys2Proof.core.run (j + k) s = Sys2Proof.core.run k t := by
  induction j generalizing s with
  | zero =>
    cases h
    rw [Nat.zero_add]
  | succ j ih =>
    rw [Nat.succ_add]
    simp only [Host.Core.run] at h ⊢
    split at h
    · exact ih _ h
    · cases h
    · cases h

end Sys2Proof.Machine
end

