-- ==== Sys2Proof/Laws/Session.lean ====
section
/-! SUPPORT. Sessions: which events start one, and what one step adds to what is observed of it. -/

namespace Sys2Proof.Machine

/-- A session starts at a reset edge, or at a `CLR` written while `BUSY = 0`, and nowhere else (R12). -/
theorem startsSession_iff (s : State) :
    startsSession s = true ↔ (∃ rest, s.inputs = .reset :: rest) ∨
      ∃ w rest, s.inputs = cmdWrite w :: rest ∧ decode w = .command .clr ∧ s.BUSY = false := by
  constructor
  · intro h
    unfold startsSession at h
    split at h
    · cases h
    · cases h
    · exact .inl ⟨_, by assumption⟩
    · cases h
    · rename_i off size w rest hi
      simp only [Bool.and_eq_true, beq_iff_eq, Bool.not_eq_true'] at h
      obtain ⟨⟨ha, hd⟩, hb⟩ := h
      obtain ⟨rfl, rfl⟩ := (accessed_eq_cmd off size).1 ha
      exact .inr ⟨w, rest, hi, hd, hb⟩
  · rintro (⟨rest, hi⟩ | ⟨w, rest, hi, hd, hb⟩)
    · simp [startsSession, hi]
    · simp [startsSession, hi, cmdWrite, hd, hb]

/-- Nothing but the engine's turn on a busy machine completes a `MSG`. -/
theorem completesMsg_idle (s : State) (h : s.BUSY = false) : completesMsg s = false := by
  simp [completesMsg, h]

/-- A step that completes no `MSG` and reads no `OUT` adds nothing. -/
theorem Observation.after_quiet (o : Observation) (s t : State) (hc : completesMsg s = false)
    (hr : readsOut s = false) : o.after s t = o := by simp [Observation.after, hc, hr]

/-- A step that starts a session closes the one in progress. -/
theorem sessionsFrom_start (k : Nat) (o : Observation) (s t : State) (h : step s = .next t)
    (hs : startsSession s = true) :
    sessionsFrom (k + 1) o s = o.close s :: sessionsFrom k .start t := by
  simp [sessionsFrom, h, hs]

/-- Every other step goes on with the session in progress. -/
theorem sessionsFrom_continue (k : Nat) (o : Observation) (s t : State) (h : step s = .next t)
    (hs : startsSession s = false) : sessionsFrom (k + 1) o s = sessionsFrom k (o.after s t) t := by
  simp [sessionsFrom, h, hs]

/-- There is always a session in progress. -/
theorem sessionsFrom_ne_nil (k : Nat) (o : Observation) (s : State) : sessionsFrom k o s ≠ [] := by
  induction k generalizing o s with
  | zero => simp [sessionsFrom]
  | succ k ih =>
    simp only [sessionsFrom]
    split
    · split
      · simp
      · exact ih _ _
    · simp
    · simp

end Sys2Proof.Machine
end

