-- ==== Sys2Proof/Tests/Slice0.lean ====
section
/-! SUPPORT. The model's own tests. Expected values come from the spec: the encodings of 30_encoding.md
and the vectors of 95_test_vectors.md (their names, K1, M3, E1, ..., are in the comments). The last part
shows, for each statement with hypotheses, a concrete state and operands that meet all of them. -/

namespace Sys2Proof.Tests

open Sys2Proof Sys2Proof.Machine

/-! ### WellFormed: an ill-formed term for each check (R69, R71) -/

theorem test_wf_nop_refuses_operand : AsmCommand.wf ⟨.nop, .number 0⟩ = false := by decide
theorem test_wf_clr_refuses_operand : AsmCommand.wf ⟨.clr, .quoted 'a'⟩ = false := by decide
theorem test_wf_sched_refuses_operand : AsmCommand.wf ⟨.sched, .number 1⟩ = false := by decide
theorem test_wf_key_needs_operand : AsmCommand.wf ⟨.key, .absent⟩ = false := by decide
theorem test_wf_key_refuses_capital : AsmCommand.wf ⟨.key, .quoted 'H'⟩ = false := by decide
theorem test_wf_msg_refuses_backquote : AsmCommand.wf ⟨.msg, .quoted '`'⟩ = false := by decide
theorem test_wf_map_refuses_256 : AsmCommand.wf ⟨.map, .number 256⟩ = false := by decide
theorem test_wf_unmap_refuses_quoted : AsmCommand.wf ⟨.unmap, .quoted 'a'⟩ = false := by decide
theorem test_wf_unmap_refuses_256 : AsmCommand.wf ⟨.unmap, .number 256⟩ = false := by decide
theorem test_wf_unmap_needs_operand : AsmCommand.wf ⟨.unmap, .absent⟩ = false := by decide
theorem test_wf_word_refuses_reserved_bit : wordWf 0x00001300 = false := by decide
theorem test_wf_word_refuses_opcode_7 : wordWf 0x00000700 = false := by decide
theorem test_wf_word_accepts_largest : wordWf 0x000006FF = true := by decide
theorem test_wf_accepts_last_symbols :
    (['z', '9', ' '].all fun c => AsmCommand.wf ⟨.key, .quoted c⟩) = true := by decide

/-! ### Decode: words written out field by field, RSVD OP ARG (R66, R68, R71) -/

theorem test_decode_nop : decode 0b00000000000000000000_0000_00000000 = .command .nop := by decide
theorem test_decode_nop_ignores_arg : decode 0x000000FF = .command .nop := by decide
theorem test_decode_clr : decode 0b00000000000000000000_0001_00000000 = .command .clr := by decide
theorem test_decode_key : decode 0b00000000000000000000_0010_01101011 = .command (.key 0x6B) := by
  decide
theorem test_decode_sched : decode 0b00000000000000000000_0011_00000000 = .command .sched := by
  decide
theorem test_decode_msg : decode 0b00000000000000000000_0100_00100000 = .command (.msg 0x20) := by
  decide
theorem test_decode_map : decode 0b00000000000000000000_0101_01111000 = .command (.map 0x78) := by
  decide
theorem test_decode_unmap : decode 0b00000000000000000000_0110_00100100 = .command (.unmap 36) := by
  decide
theorem test_decode_reserved_bit : decode 0x00001300 = .illegal .reservedBits := by decide
theorem test_decode_top_reserved_bit : decode 0x80000000 = .illegal .reservedBits := by decide
theorem test_decode_opcode_7 : decode 0x00000700 = .illegal .reservedOpcode := by decide
theorem test_decode_opcode_15 : decode 0x00000F41 = .illegal .reservedOpcode := by decide
theorem test_assemble_key : assemble ⟨.key, .quoted 'k'⟩ = some 0x0000026B := by decide
theorem test_assemble_unmap : assemble ⟨.unmap, .number 36⟩ = some 0x00000624 := by decide
theorem test_table_word : decodeTableWord 32 0x0000061B = some (.unmap 27) := by decide
theorem test_table_word_illegal : decodeTableWord 32 0x00001300 = none := by decide

/-! ### Small runs -/

/-- The state after `k` steps. -/
def after (k : Nat) (s : State) : State :=
  match Sys2Proof.core.run k s with
  | .next t => t
  | .fault _ => s
  | .refused _ => s

/-- The machine from `s` once the words have been written one by one, each operation completing before
the next write. -/
def typed (s : State) : List Word → State
  | [] => s
  | w :: ws => typed (after 2 { s with inputs := [cmdWrite w] }) ws

/-- `KEYSTR` of a text from reset. -/
def keyed (t : List Char) : State := typed State.reset (t.map fun c => encode (.key (hostCode c)))

/-- A scheduled machine with a one-symbol key whose permutation is left the identity: a small `STREAM`
state, for tests that need no key schedule. -/
def streaming : State := { State.reset with KLEN := 1, PHASE := .stream }

/-- A machine with the code 1 latched. -/
def latched : State := { State.reset with ERR := true, ERRCODE := .invalidKeySymbol }

/-- A machine on which a `MSG` is running. -/
def busy : State := after 1 { streaming with inputs := [cmdWrite 0x00000468] }

/-- S2: `NOP` with a nonzero `ARG` changes nothing. -/
theorem test_nop : typed streaming [0x000000FF] =
    { streaming with inputs := [], response := none } := by decide
/-- S5: `CLR` keeps `RESULT` and resets the rest of the session. -/
theorem test_clr : (typed { streaming with RESULT := 0x124, MCOUNT := 7 } [0x00000100]).toRegs =
    { Regs.reset with RESULT := 0x124 } := by decide
/-- S4: `CLR` clears the latch. -/
theorem test_clr_latch : statusWord (typed latched [0x00000100]) = 0 := by decide
/-- K9: `KEY 'k'`. -/
theorem test_key : statusWord (typed State.reset [0x0000026B]) = 0x00000100 ∧
    keyEntry (typed State.reset [0x0000026B]).KEY 0 = 11 := by decide
/-- E17, K9: the 33rd symbol is accepted and not stored; a bad one is an error. -/
theorem test_key_full : statusWord (typed { State.reset with KLEN := 32 } [0x0000027A]) = 0x00002000 ∧
    statusWord (typed { State.reset with KLEN := 32 } [0x0000025A]) = 0x00002012 := by decide
/-- K1: the key schedule of `key1`. -/
theorem test_sched : permList (typed (keyed ['k', 'e', 'y', '1']) [0x00000300]).S =
    [23, 17, 12, 6, 5, 18, 7, 2, 13, 3, 10, 31, 21, 25, 15, 8, 28, 4, 19, 16, 26, 22, 9, 27, 29, 20, 11,
      24, 30, 1, 14, 0] := by decide +kernel
/-- K1, E10: `STATUS` after `SCHED`, and after a second one. -/
theorem test_sched_twice : statusWord (typed (keyed ['k']) [0x00000300]) = 0x00000104 ∧
    statusWord (typed (keyed ['k']) [0x00000300, 0x00000300]) = 0x00000146 := by decide
/-- M3: the first two outputs of `hello world` under `key1`. -/
theorem test_msg :
    (typed (keyed ['k', 'e', 'y', '1']) [0x00000300, 0x00000468]).OUT = 0x80161E33 ∧
    (typed (keyed ['k', 'e', 'y', '1']) [0x00000300, 0x00000468, 0x00000465]).OUT = 0x80191C31 := by
  decide +kernel
/-- M2's row 2: the index 36 ('9') with the keystream value 2 gives the index 1 ('a'). From the identity
the first step reads `S[2] = 2`. -/
theorem test_msg_folds : (typed streaming [0x00000439]).OUT = 0x80020161 := by decide
/-- A15, A18. -/
theorem test_map : (typed State.reset [0x00000578]).RESULT = 0x00000118 ∧
    (typed State.reset [0x00000548]).RESULT = 0 := by decide
/-- A24: `MAP` runs while an error is latched, and leaves the latch. -/
theorem test_map_latched : (typed latched [0x00000561]).RESULT = 0x00000101 ∧
    statusWord (typed latched [0x00000561]) = 0x00000012 := by decide
/-- A19, A20. -/
theorem test_unmap : (typed State.reset [0x0000061B]).RESULT = 0x00000130 ∧
    (typed State.reset [0x00000624]).RESULT = 0x00000139 := by decide
/-- A22, A23. -/
theorem test_unmap_range : (typed { State.reset with RESULT := 5 } [0x00000625]).RESULT = 0 ∧
    (typed { State.reset with RESULT := 5 } [0x000006FF]).RESULT = 0 := by decide

/-- E3, E4, E6, E7, E8: the errors of a machine after reset. -/
theorem test_errors_at_reset :
    ([0x00001300, 0x00000700, 0x00000300, 0x00000248, 0x00000448].map fun w =>
      statusWord (typed State.reset [w])) =
    [0x00000052, 0x00000052, 0x00000032, 0x00000012, 0x00000042] := by decide
/-- E9, E11: the errors of a machine in `STREAM`. -/
theorem test_errors_in_stream :
    ([0x00000248, 0x00000448].map fun w => statusWord (typed streaming [w])) =
    [0x00000146, 0x00000126] := by decide
/-- E12, E13, E15: after an error the first code stays, until `CLR`. -/
theorem test_first_error_wins :
    ([0x00000468, 0x00000700, 0x00000100].map fun w => statusWord (typed streaming [0x00000448, w])) =
    [0x00000126, 0x00000126, 0] := by decide
/-- E1: a write while `CLR` runs latches `OVERRUN`, and the latch survives the completion. -/
theorem test_overrun : statusWord (after 3
    { State.reset with inputs := [cmdWrite 0x00000100, cmdWrite 0xFFFFFFFF] }) = 0x00000062 := by decide
/-- B1-B14: the responses of reads and writes after reset. -/
theorem test_bus_responses :
    ([rd .id, rd .cmd, .request (.write 0x000 .word 0x12345678), .request (.read 0x01C .word),
      .request (.read 0x07C .word), .request (.read 0x180 .word), .request (.read 0x002 .word),
      .request (.write 0x004 .byte 0), .request (.read 0x008 .half)].map fun x =>
        (after 1 { State.reset with inputs := [x] }).response) =
    [some ⟨0x53432025, false⟩, some ⟨0, false⟩, some ⟨0, false⟩, some ⟨0, true⟩, some ⟨0, true⟩,
      some ⟨0, true⟩, some ⟨0, true⟩, some ⟨0, true⟩, some ⟨0, true⟩] := by decide
/-- W7, M8: the source's `transform` gives the golden vector and its reapplications. -/
theorem test_source_transform :
    Source.transform "hello world".toList "key1".toList = some "31y4c4res0s".toList ∧
    Source.transform "0123456789".toList "key1".toList = some "mehmsz9c7n".toList ∧
    Source.transform "mehmsz9c7n".toList "key1".toList = some "01234e6i8y".toList := by decide
/-- W7: the named alternative of the parameter seeds `J` with the schedule's final accumulator (K1). -/
theorem test_seed_alternative :
    (schedule .ksaFinal (keyed ['k', 'e', 'y', '1']).toRegs).J = 11 := by decide +kernel
/-- P1, shortened: the session `TRANSFORM "he", "k"` run through the bus gives the source's result. -/
theorem test_session :
    ((sessions (transformScript 1 [('k', 0)] 2 [('h', 0), ('e', 1)]).length
      { State.reset with inputs := transformScript 1 [('k', 0)] 2 [('h', 0), ('e', 1)] }).map
        SessionResult.value) =
    [some [], (Source.transform ['h', 'e'] ['k']).map (List.map hostCode)] := by decide +kernel
/-- R12: one symbol for each completed `MSG`. The reads of `OUT` before the `MSG`, while it is busy and
after its symbol was read add none; the `CLR` written while busy is discarded and ends nothing, the next
one ends the session with `ERR = 1` (OVERRUN), and the reset edge ends that one. -/
theorem test_session_bounds :
    sessions 13 { streaming with inputs := [rd .out, cmdWrite 0x468, rd .out, cmdWrite 0x100, .engine,
      rd .out, rd .out, cmdWrite 0x100, .engine, rd .out, .reset, rd .out] } =
    [⟨[0x6A], true⟩, ⟨[], false⟩, ⟨[], false⟩] := by decide
/-- R137's table. -/
theorem test_timing : nominalBusyCycles .sched = 33 ∧ nominalBusyCycles (.msg 0) = 2 := by decide

/-! ### Witnesses: each statement's hypotheses are met

One theorem for each statement with hypotheses, named for it. A statement with several clauses has a
state and operands for each clause, at the boundary of its range. -/

/-- `s` with these events to come. -/
def withInputs (s : State) (l : List Input) : State := { s with inputs := l }

/-- Words at the edges of each clause: the fields `RSVD` and `OP` of each. -/
theorem witness_DecoderFollowsOpcodeMap :
    ((0x00001000 : Word).toNat / 4096 ≠ 0 ∧ (0xFFFFFFFF : Word).toNat / 4096 ≠ 0) ∧
    ([0x000, 0x0FF, 0x100, 0x2FF, 0x300, 0x400, 0x5FF, 0x6FF].map fun w : Word =>
      (w.toNat / 4096, w.toNat / 256 % 16)) =
      [(0, 0), (0, 0), (0, 1), (0, 2), (0, 3), (0, 4), (0, 5), (0, 6)] ∧
    (0x700 : Word).toNat / 4096 = 0 ∧ 7 ≤ (0x700 : Word).toNat / 256 % 16 ∧
    7 ≤ (0xFFF : Word).toNat / 256 % 16 := by decide

theorem witness_IllegalWordRaisesIllegalCmd :
    ((withInputs State.reset [cmdWrite 0x1000]).inputs = cmdWrite 0x1000 :: [] ∧
      (withInputs State.reset [cmdWrite 0x1000]).BUSY = false ∧ (0x1000 : Word).toNat / 4096 ≠ 0) ∧
    ((withInputs latched [cmdWrite 0x700]).inputs = cmdWrite 0x700 :: [] ∧
      (withInputs latched [cmdWrite 0x700]).BUSY = false ∧ 7 ≤ (0x700 : Word).toNat / 256 % 16) := by
  decide

theorem witness_AssemblerAgreesWithDecoder :
    AsmCommand.wf ⟨.key, .quoted 'H'⟩ = false ∧ AsmCommand.wf ⟨.key, .quoted 'k'⟩ = true ∧
      AsmCommand.wf ⟨.unmap, .number 255⟩ = true ∧ symbolChar '9' = true := by decide

theorem witness_LookupAndUnmapAreInverse :
    (0 : Index).toNat < 37 ∧ (36 : Index).toNat < 37 ∧ lookup 0x20 = some 0 ∧ lookup 0x39 = some 36 := by
  decide

theorem witness_WindowIsLittleEndian : (0 : Nat) < 4 ∧ 3 < 4 := by decide

/-- One access for each ground, each as a read and as a write. -/
theorem witness_RefusedAccessChangesNothing :
    (∀ p ∈ [((0x004 : Offset), AccessSize.byte), (0x008, .reserved), (0x002, .word), (0x01C, .word),
        (0x07C, .word), (0x180, .word), (0xFFC, .word)],
      p.2 ≠ .word ∨ p.1.toNat % 4 ≠ 0 ∨ (0x01C ≤ p.1.toNat ∧ p.1.toNat < 0x080) ∨ 0x180 ≤ p.1.toNat) ∧
    (withInputs State.reset [.request (.read 0x01C .word)]).inputs =
      .request (.read 0x01C .word) :: [] ∧
    (withInputs State.reset [.request (.write 0x004 .byte 0)]).inputs =
      .request (.write 0x004 .byte 0) :: [] := by decide

/-- Each register of the map, the first and last entry of the two arrays among them, on an idle and on a
busy machine. -/
theorem witness_IdleAndBusyReads :
    (∀ r ∈ [Reg.id, .cmd, .status, .out, .result, .mcount, .ij, .state 0, .state 31, .keybuf 0,
        .keybuf 31],
      ((withInputs streaming [rd r]).inputs = .request (.read r.offset .word) :: [] ∧
        (withInputs streaming [rd r]).BUSY = false) ∧
      ((withInputs busy [rd r]).inputs = .request (.read r.offset .word) :: [] ∧
        (withInputs busy [rd r]).BUSY = true)) := by decide

theorem witness_ReadOnlyWriteIsIgnored :
    Reg.status ≠ .cmd ∧
    (withInputs busy [.request (.write (Reg.offset .status) .word 0xFFFFFFFF)]).inputs =
      .request (.write (Reg.offset .status) .word 0xFFFFFFFF) :: [] := by
  exact ⟨by decide, rfl⟩

/-- The two clauses: a `KEY` written by the host after reset, and an `UNMAP` placed by `withFetchWord`. -/
theorem witness_StepRunsDecodedCommand :
    ((withInputs State.reset [cmdWrite 0x26B]).inputs = cmdWrite 0x26B :: [] ∧
      decode 0x26B = .command (.key 0x6B) ∧
      ∃ t, exec (.key 0x6B)
        { withInputs State.reset [cmdWrite 0x26B] with inputs := [], response := none } = .next t) ∧
    (decode 0x6FF = .command (.unmap 255) ∧
      ∃ t, exec (.unmap 255) { State.reset with response := none } = .next t) :=
  ⟨⟨rfl, by decide, _, rfl⟩, by decide, _, rfl⟩

/-- Both forms of the engine's turn, with an operation pending and without one. -/
theorem witness_EngineCompletesPendingOperation :
    ((withInputs busy [.engine]).inputs = .engine :: [] ∧ (withInputs busy [.engine]).BUSY = true ∧
      (withInputs busy [.engine]).PENDING.isSome = true) ∧
    (busy.inputs = [] ∧ busy.BUSY = true ∧ busy.PENDING.isSome = true) ∧
    ((withInputs latched [.engine]).inputs = .engine :: [] ∧ latched.inputs = [] ∧
      latched.BUSY = false) := by decide

theorem witness_ResetEdgeRestoresEverything :
    (withInputs busy [.reset, rd .id]).inputs = .reset :: [rd .id] := rfl

theorem witness_RunningOperationIsUnaffected :
    ∃ p, busy.BUSY = true ∧ busy.PENDING = some p ∧
      (withInputs busy [cmdWrite 0x100, rd .out, .engine]).inputs =
        [BusRequest.write 0x004 .word 0x100, .read (Reg.offset .out) .word].map Input.request ++
          .engine :: [] :=
  ⟨{ op := .msg 0x68, after := operation (.msg 0x68) busy.toRegs }, by decide, by decide, rfl⟩

/-- An idle machine, in each phase and with an error latched: `NOP`, `CLR`, `MAP`, `UNMAP`. -/
theorem witness_NopClrMapUnmap :
    State.reset.BUSY = false ∧ streaming.BUSY = false ∧ latched.BUSY = false := by decide

/-- The clauses of `MAP`: a code that is found and one that is not; of `UNMAP`: 0 and 36, 37 and 255. -/
theorem witness_MapUnmapClauses :
    lookup 0x39 = some 36 ∧ lookup 0x3A = none ∧ alphabetRom[(0 : Byte).toNat]? = some 0x20 ∧
      alphabetRom[(36 : Byte).toNat]? = some 0x39 ∧ 37 ≤ (37 : Byte).toNat ∧ 37 ≤ (255 : Byte).toNat := by
  decide

/-- `KEY` with room for the first and for the last entry, and with a full buffer. -/
theorem witness_KeyAppendsSymbol :
    (State.reset.BUSY = false ∧ State.reset.ERR = false ∧ State.reset.PHASE = .keyload ∧
      lookup 0x6B = some 11) ∧
    State.reset.KLEN.toNat < 32 ∧ ({ State.reset with KLEN := 31 } : State).KLEN.toNat < 32 ∧
    32 ≤ ({ State.reset with KLEN := 32 } : State).KLEN.toNat := by decide

theorem witness_SchedEntersStream :
    (keyed ['k']).BUSY = false ∧ (keyed ['k']).ERR = false ∧ (keyed ['k']).PHASE = .keyload ∧
      (keyed ['k']).KLEN ≠ 0 := by decide

theorem witness_MsgEncryptsSymbol :
    streaming.BUSY = false ∧ streaming.ERR = false ∧ streaming.PHASE = .stream ∧
      lookup 0x68 = some 8 := by decide

theorem witness_RaiseKeepsTheFirstError : State.reset.ERR = false ∧ latched.ERR = true := by decide

/-- A machine for each line of the checks: busy, an error latched, the other phase, an empty key, an
unknown symbol. -/
theorem witness_SubmissionChecksInOrder :
    busy.BUSY = true ∧ latched.ERR = true ∧ streaming.PHASE = .stream ∧ State.reset.PHASE = .keyload ∧
      State.reset.KLEN = 0 ∧ lookup 0x48 = none ∧ decode 0x700 = .illegal .reservedOpcode := by
  decide

theorem witness_OverrunSurvivesCompletion :
    ∃ p, (withInputs busy [cmdWrite 0]).inputs = cmdWrite 0 :: [] ∧
      (withInputs busy [cmdWrite 0]).BUSY = true ∧ (withInputs busy [cmdWrite 0]).PENDING = some p ∧
      (withInputs busy [cmdWrite 0]).ERR = false :=
  ⟨{ op := .msg 0x68, after := operation (.msg 0x68) busy.toRegs }, rfl, by decide, by decide,
    by decide⟩

/-- The three ways: an event that keeps the latch, a reset edge, and a `CLR`. -/
theorem witness_OnlyClrAndResetClearTheLatch :
    ((withInputs latched [rd .status]).ERR = true ∧
      ∃ t, step (withInputs latched [rd .status]) = .next t) ∧
    ((withInputs latched [.reset]).ERR = true ∧ ∃ t, step (withInputs latched [.reset]) = .next t) ∧
    ((withInputs latched [cmdWrite 0x100]).ERR = true ∧
      ∃ t, step (withInputs latched [cmdWrite 0x100]) = .next t) :=
  ⟨⟨rfl, _, rfl⟩, ⟨rfl, _, rfl⟩, rfl, _, rfl⟩

theorem witness_ErrorFreezesTheSession :
    (withInputs latched [cmdWrite 0x26B, .engine, cmdWrite 0x561]).ERR = true ∧
    (withInputs latched [cmdWrite 0x26B, .engine, cmdWrite 0x561]).BUSY = false ∧
    (withInputs latched [cmdWrite 0x26B, .engine, cmdWrite 0x561]).PENDING = none ∧
    ∀ x ∈ (withInputs latched [cmdWrite 0x26B, .engine, cmdWrite 0x561]).inputs,
      x ≠ .reset ∧ ∀ w, x = cmdWrite w → decode w ≠ .command .clr := by
  refine ⟨rfl, rfl, rfl, ?_⟩
  intro x hx
  simp only [withInputs, List.mem_cons, List.not_mem_nil, or_false] at hx
  rcases hx with rfl | rfl | rfl
  · refine ⟨by decide, fun w h => ?_⟩
    simp only [cmdWrite, Input.request.injEq, BusRequest.write.injEq, true_and] at h
    subst h
    decide
  · exact ⟨by decide, fun w h => by simp [cmdWrite] at h⟩
  · refine ⟨by decide, fun w h => ?_⟩
    simp only [cmdWrite, Input.request.injEq, BusRequest.write.injEq, true_and] at h
    subst h
    decide

/-- A machine that has encrypted one symbol, the next write waiting. -/
def sample : State := withInputs (typed streaming [0x00000468]) [cmdWrite 0x465]

theorem sample_regs_inv : sample.toRegs.Inv where
  perm := by unfold isPermutation; decide
  klen := by decide
  keyRange := by decide
  keyTail := by decide
  streamKey := by decide
  keyloadFresh := by
    intro h
    exact absurd h (by decide)
  out := .inr ⟨2, 10, by decide, by decide⟩
  noOutput := by decide
  result := .inl (by decide)

theorem sample_inv : sample.Inv where
  regs := sample_regs_inv
  busy := by decide
  latch := by decide
  pending := by
    intro p h
    rw [show sample.PENDING = none by decide] at h
    cases h

theorem witness_StepKeepsInvariant : sample.Inv ∧ ∃ t, step sample = .next t :=
  ⟨sample_inv, _, rfl⟩

theorem witness_RegistersAreWrittenOnlyByTheirOperations :
    sample.Inv ∧ (∃ t, step sample = .next t) ∧ ∀ rest, sample.inputs ≠ .reset :: rest := by
  refine ⟨sample_inv, ⟨_, rfl⟩, fun rest h => ?_⟩
  simp [sample, withInputs, cmdWrite] at h

theorem witness_SwapExchangesTwoEntries :
    (2 : Entry) ≠ 0 ∧ (2 : Entry) ≠ 31 ∧ isPermutation identityPerm :=
  ⟨by decide, by decide, by unfold isPermutation; decide⟩

theorem witness_KeyScheduleIsTheSources :
    1 ≤ (1 : BitVec 6).toNat ∧ (1 : BitVec 6).toNat ≤ 32 ∧ 1 ≤ (32 : BitVec 6).toNat ∧
      (32 : BitVec 6).toNat ≤ 32 := by decide

/-- K5: the indices 32 and 0. -/
theorem witness_KeyIndicesCountModuloThirtyTwo :
    (∀ n : Entry, (keyEntry (keyed ['k', 'e', 'y', '5']).KEY n).toNat % 32 =
      (keyEntry (keyed ['k', 'e', 'y', ' ']).KEY n).toNat % 32) ∧
    (keyed ['k', 'e', 'y', '5']).KEY ≠ (keyed ['k', 'e', 'y', ' ']).KEY := by decide

/-- K6: `ab` and `abab`; and a key of 33 symbols. -/
theorem witness_CyclicallyEqualKeysScheduleAlike :
    (∀ n : Entry, keyAt (keyed ['a', 'b']).KEY 2 n = keyAt (keyed ['a', 'b', 'a', 'b']).KEY 4 n) ∧
    (∀ n < 32, [1, 2].getD (n % [1, 2].length) 0 = [1, 2, 1, 2].getD (n % [1, 2, 1, 2].length) 0) ∧
    33 ≤ (List.range 33).length := by decide

theorem witness_KeyBufferLosesNothing :
    Regs.reset.KLEN = 0 ∧ [(11 : Index)] ≠ [] ∧ List.replicate 33 (36 : Index) ≠ [] := by decide

/-- M6's fifth step: `t = J'`, and the two entries differ; and a step whose `t` is neither index. -/
theorem witness_KeystreamIsReadAfterTheSwap :
    (∃ (p : Perm) (i j : Entry), permAt p (prgaI i) ≠ permAt p (prgaJ p i j) ∧
      (prgaT p i j = prgaI i ∨ prgaT p i j = prgaJ p i j)) ∧
    (∃ (p : Perm) (i j : Entry), prgaT p i j ≠ prgaI i ∧ prgaT p i j ≠ prgaJ p i j) :=
  ⟨⟨swap identityPerm 1 0, 0, 31, by decide, by decide⟩, ⟨identityPerm, 0, 0, by decide, by decide⟩⟩

theorem witness_ThirtyTwoStepsReturnTheIndex : isPermutation identityPerm := by
  unfold isPermutation; decide

theorem witness_Combine :
    ((31 : Index).toNat ≤ 36 ∧ (31 : Index).toNat < 32) ∧
    ((32 : Index).toNat ≤ 36 ∧ 32 ≤ (32 : Index).toNat) ∧ (36 : Index).toNat ≤ 36 ∧
    (0 : Entry).toNat = 0 ∧ 8 ≤ (8 : Entry).toNat ∧ (31 : Entry).toNat = 31 ∧ (1 : Entry) ≠ 0 := by
  decide

theorem witness_TransformTwiceReturnsLowMessages :
    (Source.transform ['h', '4'] ['k']).isSome = true ∧
    ∀ c ∈ ['h', '4'], ∃ n, Source.indexOf c = some n ∧ n < 32 := by
  refine ⟨by decide, fun c hc => ?_⟩
  simp only [List.mem_cons, List.not_mem_nil, or_false] at hc
  rcases hc with rfl | rfl
  · exact ⟨8, by decide, by decide⟩
  · exact ⟨31, by decide, by decide⟩

/-- From a state with an error latched and a phase left over, a `CLR` coming next. -/
theorem witness_SessionComputesTransform :
    ∃ (s : State) (out : List Char), s.BUSY = false ∧
      s.inputs = transformScript 1 [('k', 0)] 2 [('9', 3)] ++ [cmdWrite 0x100] ∧
      Source.transform ([('9', 3)].map Prod.fst) ([('k', 0)].map Prod.fst) = some out :=
  ⟨withInputs { latched with PHASE := .stream }
      (transformScript 1 [('k', 0)] 2 [('9', 3)] ++ [cmdWrite 0x100]),
    (Source.transform ['9'] ['k']).getD [], rfl, rfl, by decide⟩

/-- The last clause's premise: after such a run the `CLR` that comes next starts a session. -/
theorem witness_SessionComputesTransform_ended :
    startsSession (after (transformScript 0 [('k', 0)] 0 []).length
      (withInputs latched (transformScript 0 [('k', 0)] 0 [] ++ [cmdWrite 0x100]))) = true := by
  decide +kernel

theorem witness_BadKeySessionHasNoResult :
    (withInputs streaming (transformScript 0 [('k', 0), ('K', 1)] 0 [('a', 0)] ++ [])).BUSY = false ∧
    (withInputs streaming (transformScript 0 [('k', 0), ('K', 1)] 0 [('a', 0)] ++ [])).inputs =
      transformScript 0 [('k', 0), ('K', 1)] 0 [('a', 0)] ++ [] ∧
    Source.indices ([('k', 0), ('K', 1)].map Prod.fst) = none :=
  ⟨rfl, rfl, by decide⟩

theorem witness_EmptyKeySessionHasNoResult :
    (withInputs streaming (transformScript 0 [] 0 [('H', 0)] ++ [])).BUSY = false ∧
    (withInputs streaming (transformScript 0 [] 0 [('H', 0)] ++ [])).inputs =
      transformScript 0 [] 0 [('H', 0)] ++ [] := ⟨rfl, rfl⟩

/-- W5, P2: `Hello` under a valid key. -/
theorem witness_BadMessageSessionHasNoResult :
    (withInputs streaming (transformScript 0 [('k', 0)] 0 ([] ++ ('H', 0) :: [('e', 0)]) ++ [])).BUSY =
      false ∧
    (withInputs streaming (transformScript 0 [('k', 0)] 0 ([] ++ ('H', 0) :: [('e', 0)]) ++ [])).inputs =
      transformScript 0 [('k', 0)] 0 ([] ++ ('H', 0) :: [('e', 0)]) ++ [] ∧
    [('k', 0)] ≠ [] ∧ (Source.indices ([('k', 0)].map Prod.fst)).isSome = true ∧
    (Source.indices (([] : List (Char × Nat)).map Prod.fst)).isSome = true ∧
    Source.indexOf 'H' = none :=
  ⟨rfl, rfl, by decide, by decide, by decide, by decide⟩

/-- Two machines that differ in phase, key and latch: a `CLR` next, and a reset edge next with one of
them busy. -/
theorem witness_ClrMakesSessionsIndependent :
    (startsSession (withInputs streaming [cmdWrite 0x100, .engine, rd .out]) = true ∧
      startsSession (withInputs latched [cmdWrite 0x100, .engine, rd .out]) = true ∧
      (withInputs latched [cmdWrite 0x100, .engine, rd .out]).inputs =
        (withInputs streaming [cmdWrite 0x100, .engine, rd .out]).inputs ∧
      streaming.draws = latched.draws) ∧
    (startsSession (withInputs busy [.reset]) = true ∧
      startsSession (withInputs latched [.reset]) = true ∧ busy.draws = latched.draws) := by decide

theorem witness_SessionOutputsAreOfTheAlphabet : sample.Inv := sample_inv

end Sys2Proof.Tests
end

section
/-! PROOF. The swap of two permutation entries (00_scope.md R10) as a transposition of the positions. -/

namespace Sys2Proof.Machine

/-- Exchanging two entries is reading the permutation through the transposition of their positions. -/
theorem permAt_swap_eq_transposition (p : Perm) (a b n : Entry) :
    permAt (swap p a b) n = permAt p (Equiv.swap a b n) := by
  rw [permAt_swap]
  by_cases hb : n = b
  · simp [hb]
  · by_cases ha : n = a
    · subst ha
      simp [hb]
    · simp [ha, hb, Equiv.swap_apply_of_ne_of_ne]

@[simp] theorem permAt_swap_left (p : Perm) (a b : Entry) : permAt (swap p a b) a = permAt p b := by
  rw [permAt_swap_eq_transposition, Equiv.swap_apply_left]

@[simp] theorem permAt_swap_right (p : Perm) (a b : Entry) : permAt (swap p a b) b = permAt p a := by
  rw [permAt_swap_eq_transposition, Equiv.swap_apply_right]

theorem permAt_swap_of_ne (p : Perm) {a b n : Entry} (ha : n ≠ a) (hb : n ≠ b) :
    permAt (swap p a b) n = permAt p n := by
  rw [permAt_swap_eq_transposition, Equiv.swap_apply_of_ne_of_ne ha hb]

@[simp] theorem swap_self (p : Perm) (a : Entry) : swap p a a = p := by
  apply perm_ext
  intro n
  rw [permAt_swap_eq_transposition, Equiv.swap_self, Equiv.refl_apply]

/-- Two equal entries of the swapped permutation stand at positions whose transposed positions hold
equal entries of `p`, so the transposition's injectivity gives the claim (10_state.md R19). -/
theorem isPermutation_swap {p : Perm} (hp : isPermutation p) (a b : Entry) :
    isPermutation (swap p a b) := by
  intro m n hmn
  rw [permAt_swap_eq_transposition, permAt_swap_eq_transposition] at hmn
  exact (Equiv.swap a b).injective (hp _ _ hmn)

/-- Settles O36, from the reads of a swapped permutation and the injectivity of a transposition. -/
theorem swapExchangesTwoEntries : Obligations.SwapExchangesTwoEntries := by
  intro p a b
  exact ⟨permAt_swap_left p a b, permAt_swap_right p a b, fun _ => permAt_swap_of_ne p,
    swap_self p a, fun hp => isPermutation_swap hp a b⟩

end Sys2Proof.Machine
end

section
/-! PROOF. The permutation the key schedule and the keystream leave in `S` (10_state.md R19,
42_key_schedule.md R83, 43_keystream.md R99), and the ranges of the indices the alphabet's functions and
`Combine` answer (41_alphabet_mapper.md R76, R81, 43_keystream.md R95). -/

namespace Sys2Proof.Machine

theorem isPermutation_identityPerm : isPermutation identityPerm := by
  intro a b h
  simpa using h

/-- A permutation before the `n`-th step of the key schedule is one after it: the step swaps (R83). -/
theorem isPermutation_ksaRun (key : KeyBuf) (klen : BitVec 6) (n : Nat) :
    isPermutation (ksaRun key klen n).1 := by
  induction n with
  | zero => exact isPermutation_identityPerm
  | succ n ih => exact isPermutation_swap ih _ _

theorem isPermutation_ksa (key : KeyBuf) (klen : BitVec 6) : isPermutation (ksa key klen).1 := by
  rw [ksa_eq]
  exact isPermutation_ksaRun key klen 32

theorem isPermutation_prgaS {p : Perm} (hp : isPermutation p) (i j : Entry) :
    isPermutation (prgaS p i j) :=
  isPermutation_swap hp _ _

theorem lookup_le {c : Code} {k : Index} (h : lookup c = some k) : k.toNat ≤ 36 := by
  unfold lookup at h
  split_ifs at h with hspace hletter hdigit
  · cases h
    decide
  · cases h
    simp only [BitVec.toNat_ofNat]
    omega
  · cases h
    simp only [BitVec.toNat_ofNat]
    omega

theorem indexOperand_le {n : Byte} {k : Index} (h : indexOperand n = some k) : k.toNat ≤ 36 := by
  unfold indexOperand at h
  split_ifs at h with hn
  cases h
  simp only [BitVec.toNat_setWidth]
  omega

/-- One conditional subtraction is enough: a 6-bit value less 37 is at most 26 (R95). -/
theorem combine_le (m : Index) (r : Entry) : (combine m r).toNat ≤ 36 := by
  simp only [combine]
  split_ifs with h
  · bv_omega
  · omega

/-- `VALID` is set in every `MSG` result (R36). -/
theorem outWord_ne_zero (ks : Entry) (idx : Index) (sym : Code) : outWord ks idx sym ≠ 0#32 := by
  intro h
  have hvalid := outValid_outWord ks idx sym
  rw [h] at hvalid
  exact absurd hvalid (by decide)

end Sys2Proof.Machine
end

section
/-! PROOF. Every operation keeps the invariant of the registers, `Regs.Inv`. -/

namespace Sys2Proof.Machine

/-- The entries of the key buffer after one is written. -/
theorem keyEntry_set (key : KeyBuf) (i : Nat) (hi : i < 32) (k : Index) (n : Entry) :
    keyEntry (key.set i k hi) n = if i = n.toNat then k else keyEntry key n := by
  simp only [keyEntry, Vector.getElem_set]

theorem Regs.inv_reset : Regs.reset.Inv where
  perm := isPermutation_identityPerm
  klen := Nat.zero_le 32
  keyRange n := by simp [keyEntry, Regs.reset]
  keyTail n _ := by simp [keyEntry, Regs.reset]
  streamKey hp := by simp [Regs.reset] at hp
  keyloadFresh _ := ⟨rfl, rfl, rfl, rfl, rfl⟩
  out := .inl rfl
  noOutput _ := rfl
  result := .inl rfl

/-- A cleared session has the reset registers but for `RESULT`, which it keeps (R102). -/
theorem Regs.inv_clearSession {r : Regs} (h : r.Inv) : (clearSession r).Inv :=
  { Regs.inv_reset with result := h.result }

theorem Regs.inv_storeKey {r : Regs} (h : r.Inv) {k : Index} (hk : k.toNat ≤ 36)
    (hphase : r.PHASE = .keyload) : (storeKey k r).Inv := by
  by_cases hroom : r.KLEN.toNat < 32
  · have hnext : (r.KLEN + 1).toNat = r.KLEN.toNat + 1 := by bv_omega
    rw [storeKey_of_room k r hroom]
    exact {
      perm := h.perm
      klen := by simp only [hnext]; omega
      keyRange := by
        intro n
        rw [keyEntry_set]
        split_ifs
        · exact hk
        · exact h.keyRange n
      keyTail := by
        intro n hn
        simp only [hnext] at hn
        rw [keyEntry_set, if_neg (by omega)]
        exact h.keyTail n (by omega)
      streamKey := fun hp => absurd (hphase.symm.trans hp) (by decide)
      keyloadFresh := h.keyloadFresh
      out := h.out
      noOutput := h.noOutput
      result := h.result }
  · rw [storeKey_of_full k r (by omega)]
    exact h

theorem Regs.inv_schedule {r : Regs} (h : r.Inv) (seed : Config.PrgaJSeed) (hkey : r.KLEN ≠ 0#6) :
    (schedule seed r).Inv where
  perm := isPermutation_ksa r.KEY r.KLEN
  klen := h.klen
  keyRange := h.keyRange
  keyTail := h.keyTail
  streamKey _ := hkey
  keyloadFresh hp := by simp at hp
  out := h.out
  noOutput := h.noOutput
  result := h.result

theorem Regs.inv_encryptSymbol {r : Regs} (h : r.Inv) (m : Index) (hphase : r.PHASE = .stream) :
    (encryptSymbol m r).Inv where
  perm := isPermutation_prgaS h.perm r.I r.J
  klen := h.klen
  keyRange := h.keyRange
  keyTail := h.keyTail
  streamKey := h.streamKey
  keyloadFresh hp := absurd (hphase.symm.trans hp) (by decide)
  out := .inr ⟨_, _, combine_le m _, rfl⟩
  noOutput hout := absurd hout (outWord_ne_zero _ _ _)
  result := h.result

/-- What `MAP` and `UNMAP` may leave in `RESULT` (R37, R80, R81): the clause of `Regs.Inv` on it. -/
def IsLookupResult (w : Word) : Prop :=
  w = 0#32 ∨ ∃ k : Index, k.toNat ≤ 36 ∧ (w = foundWord (k.setWidth 8) ∨ w = foundWord (unmap k))

theorem isLookupResult_mapWord (c : Code) : IsLookupResult (mapWord c) := by
  unfold mapWord
  cases hc : symbolOperand c with
  | none => exact .inl rfl
  | some k => exact .inr ⟨k, lookup_le hc, .inl rfl⟩

theorem isLookupResult_unmapWord (n : Byte) : IsLookupResult (unmapWord n) := by
  unfold unmapWord
  cases hn : indexOperand n with
  | none => exact .inl rfl
  | some k => exact .inr ⟨k, indexOperand_le hn, .inr rfl⟩

theorem Regs.inv_storeResult {r : Regs} (h : r.Inv) {w : Word} (hw : IsLookupResult w) :
    (storeResult w r).Inv where
  perm := h.perm
  klen := h.klen
  keyRange := h.keyRange
  keyTail := h.keyTail
  streamKey := h.streamKey
  keyloadFresh := h.keyloadFresh
  out := h.out
  noOutput := h.noOutput
  result := hw

/-- Every operation that passes the checks of R108 keeps the invariant of the registers. -/
theorem Regs.inv_operation {r : Regs} (h : r.Inv) {i : Instr} (hi : admits r i) :
    (operation i r).Inv := by
  cases i with
  | nop => exact hi.elim
  | clr => exact Regs.inv_clearSession h
  | key c =>
    obtain ⟨hphase, hsome⟩ := hi
    obtain ⟨k, hk⟩ := Option.isSome_iff_exists.1 hsome
    simpa only [operation, hk] using Regs.inv_storeKey h (lookup_le hk) hphase
  | sched => exact Regs.inv_schedule h prgaJSeed hi.2
  | msg c =>
    obtain ⟨hphase, hsome⟩ := hi
    obtain ⟨m, hm⟩ := Option.isSome_iff_exists.1 hsome
    simpa only [operation, hm] using Regs.inv_encryptSymbol h m hphase
  | map c => exact Regs.inv_storeResult h (isLookupResult_mapWord c)
  | unmap n => exact Regs.inv_storeResult h (isLookupResult_unmapWord n)

end Sys2Proof.Machine
end

section
/-! PROOF. The invariant of the state: the reset state has it and every step keeps it (O35, O34). -/

namespace Sys2Proof.Machine

/-- The invariant reads only what a transaction leaves untouched. -/
theorem State.inv_of_untouched {s t : State} (h : s.Inv) (hst : Untouched s t) : t.Inv := by
  obtain ⟨hregs, hbusy, herr, hcode, hpending⟩ := hst
  exact {
    regs := hregs ▸ h.regs
    busy := by rw [hbusy, hpending, h.busy]
    latch := by rw [herr, hcode, h.latch]
    pending := by rw [hpending, hregs]; exact h.pending }

theorem untouched_takeInput (rest : List Input) (s : State) : Untouched s (takeInput rest s) :=
  ⟨rfl, rfl, rfl, rfl, rfl⟩

theorem untouched_respond (r : Response) (s : State) : Untouched s (respond r s) :=
  ⟨rfl, rfl, rfl, rfl, rfl⟩

/-- A state with nothing pending and no error has the invariant when its registers have it. -/
theorem State.inv_of_idle_clear {s : State} (hregs : s.toRegs.Inv) (hbusy : s.BUSY = false)
    (hpending : s.PENDING = none) (herr : s.ERR = false) (hcode : s.ERRCODE = .none) : s.Inv where
  regs := hregs
  busy := by rw [hbusy, hpending]; rfl
  latch := by simp [herr, hcode]
  pending := by simp [hpending]

theorem State.inv_resetEdge (s : State) : (resetEdge s).Inv :=
  State.inv_of_idle_clear Regs.inv_reset rfl rfl rfl rfl

theorem State.inv_raise {s : State} (h : s.Inv) {e : ErrCode} (he : e ≠ .none) : (raise e s).Inv where
  regs := by simpa using h.regs
  busy := by simpa using h.busy
  latch := by
    have := h.latch
    cases herr : s.ERR <;> simp_all
  pending := by simpa using h.pending

/-- Acceptance sets `BUSY` and `PENDING` together, and the effect it computes is the one the registers
give at any later time, for no step in between writes them (R26, R109). -/
theorem State.inv_accept {s : State} (h : s.Inv) {i : Instr} (hi : admits s.toRegs i) :
    (accept i (operation i s.toRegs) s).Inv where
  regs := h.regs
  busy := rfl
  latch := h.latch
  pending := by
    intro p hp
    cases hp
    exact ⟨hi, rfl⟩

theorem State.inv_clearLatch {s : State} (h : s.Inv) : (clearLatch s).Inv where
  regs := h.regs
  busy := h.busy
  latch := by simp
  pending := h.pending

@[simp] theorem acceptLatch_toRegs (i : Instr) (s : State) : (acceptLatch i s).toRegs = s.toRegs := by
  cases i <;> rfl

theorem State.inv_acceptLatch {s : State} (h : s.Inv) (i : Instr) : (acceptLatch i s).Inv := by
  cases i with
  | clr => exact State.inv_clearLatch h
  | nop | key _ | sched | msg _ | map _ | unmap _ => exact h

/-- With the invariant, the engine's turn finds the machine idle, or completes an operation its
registers admit. -/
theorem State.Inv.engineTurn_cases {s : State} (h : s.Inv) :
    engineTurn s = s ∨
    ∃ p, s.BUSY = true ∧ s.PENDING = some p ∧ admits s.toRegs p.op ∧
      p.after = operation p.op s.toRegs ∧
      engineTurn s = { s with toRegs := p.after, BUSY := false, PENDING := none } := by
  cases hbusy : s.BUSY with
  | false => exact .inl (engineTurn_idle s hbusy)
  | true =>
    obtain ⟨p, hp⟩ := Option.isSome_iff_exists.1 (h.busy.symm.trans hbusy)
    obtain ⟨hadmits, hafter⟩ := h.pending p hp
    exact .inr ⟨p, rfl, hp, hadmits, hafter, engineTurn_pending s p hbusy hp⟩

theorem State.inv_engineTurn {s : State} (h : s.Inv) : (engineTurn s).Inv := by
  rcases h.engineTurn_cases with hidle | ⟨p, _, _, hadmits, hafter, hturn⟩
  · rw [hidle]
    exact h
  · rw [hturn]
    exact {
      regs := hafter ▸ Regs.inv_operation h.regs hadmits
      busy := rfl
      latch := h.latch
      pending := by simp }

theorem State.inv_exec {s t : State} (h : s.Inv) {i : Instr} (ht : exec i s = .next t) : t.Inv := by
  obtain ⟨u, hu, hcases⟩ := exec_cases i s
  obtain rfl : u = t := by simpa [hu] using ht
  rcases hcases with ⟨rfl, _⟩ | ⟨e, he, rfl⟩ | ⟨_, hadmits, _, rfl⟩
  · exact h
  · exact State.inv_raise h he
  · have hacc := State.inv_accept (State.inv_acceptLatch h i) (i := i) (by simpa using hadmits)
    simpa using hacc

theorem State.inv_submitCommand {s t : State} (h : s.Inv) {w : Word}
    (ht : submitCommand w s = .next t) : t.Inv := by
  rcases submitCommand_cases w s with ⟨_, _, hraise⟩ | ⟨i, _, hexec⟩
  · obtain rfl : raise _ s = t := by simpa [hraise] using ht
    exact State.inv_raise h (by split <;> decide)
  · exact State.inv_exec h (hexec ▸ ht)

/-- Settles O34, by the four things a step can do. -/
theorem stepKeepsInvariant : Obligations.StepKeepsInvariant := by
  intro s t h hstep
  have htake (rest : List Input) : (takeInput rest s).Inv :=
    State.inv_of_untouched h (untouched_takeInput rest s)
  rcases step_cases s with ⟨rest, _, e⟩ | ⟨rest, _, e⟩ | ⟨w, rest, _, e⟩ | ⟨_, rest, u, _, _, e, hu, _⟩
  · obtain rfl : engineTurn _ = t := by simpa [e] using hstep
    exact State.inv_engineTurn (htake rest)
  · obtain rfl : resetEdge _ = t := by simpa [e] using hstep
    exact State.inv_resetEdge _
  · obtain ⟨u, hu, rfl⟩ := (answerOk_eq_next _ _).1 (e.symm.trans hstep)
    exact State.inv_of_untouched (State.inv_submitCommand (htake rest) hu) (untouched_respond _ u)
  · obtain rfl : u = t := by simpa [e] using hstep
    exact State.inv_of_untouched h hu

/-- Settles O35. -/
theorem resetHasInvariant : Obligations.ResetHasInvariant :=
  State.inv_of_idle_clear Regs.inv_reset rfl rfl rfl rfl

/-- Settles O18, register by register; the two arrays by the reads of the identity permutation and of a
constant buffer. -/
theorem resetValuesAreAsStated : Obligations.ResetValuesAreAsStated := by
  refine ⟨fun n => permAt_identityPerm n, rfl, rfl, fun n => ?_, rfl, rfl, rfl, rfl, rfl, rfl, rfl, rfl,
    rfl⟩
  simp [keyEntry, Regs.reset]

end Sys2Proof.Machine
end

section
/-! PROOF. Outside a reset edge, each register is written only by the completion of the operations the
rules name for it (10_state.md R16, R18, R20-R24, R29-R31). -/

namespace Sys2Proof.Machine

theorem storeKey_frame (k : Index) (r : Regs) :
    storeKey k r = { r with KEY := (storeKey k r).KEY, KLEN := (storeKey k r).KLEN } := by
  unfold storeKey
  split <;> rfl

/-- The submission of a command writes no register (R109): its effect waits for the completion. -/
theorem exec_toRegs {s t : State} {i : Instr} (ht : exec i s = .next t) : t.toRegs = s.toRegs := by
  obtain ⟨u, hu, hcases⟩ := exec_cases i s
  obtain rfl : u = t := by simpa [hu] using ht
  rcases hcases with ⟨rfl, _⟩ | ⟨e, _, rfl⟩ | ⟨_, _, _, rfl⟩
  · rfl
  · exact raise_toRegs e s
  · exact acceptLatch_toRegs i s

theorem submitCommand_toRegs {s t : State} {w : Word} (ht : submitCommand w s = .next t) :
    t.toRegs = s.toRegs := by
  rcases submitCommand_cases w s with ⟨_, _, hraise⟩ | ⟨i, _, hexec⟩
  · obtain rfl : raise _ s = t := by simpa [hraise] using ht
    exact raise_toRegs _ s
  · exact exec_toRegs (hexec ▸ ht)

/-- Under the invariant, a step that is no reset edge leaves the registers, or completes the pending
operation and writes that operation's effect on them. -/
theorem State.Inv.step_toRegs_cases {s t : State} (h : s.Inv) (hstep : step s = .next t)
    (hreset : ∀ rest, s.inputs ≠ .reset :: rest) :
    t.toRegs = s.toRegs ∨
    ∃ p, s.PENDING = some p ∧ s.BUSY = true ∧ t.BUSY = false ∧ t.toRegs = p.after ∧
      admits s.toRegs p.op ∧ p.after = operation p.op s.toRegs := by
  rcases step_cases s with ⟨rest, _, e⟩ | ⟨rest, hi, _⟩ | ⟨w, rest, _, e⟩ | ⟨_, _, u, _, _, e, hu, _⟩
  · obtain rfl : engineTurn _ = t := by simpa [e] using hstep
    have htake : (takeInput rest s).Inv := State.inv_of_untouched h (untouched_takeInput rest s)
    rcases htake.engineTurn_cases with hidle | ⟨p, hbusy, hp, hadmits, hafter, hturn⟩
    · exact .inl (by rw [hidle]; rfl)
    · exact .inr ⟨p, hp, hbusy, engineTurn_BUSY _, by rw [hturn], hadmits, hafter⟩
  · exact absurd hi (hreset rest)
  · obtain ⟨u, hu, rfl⟩ := (answerOk_eq_next _ _).1 (e.symm.trans hstep)
    have hregs := submitCommand_toRegs hu
    exact .inl hregs
  · obtain rfl : u = t := by simpa [e] using hstep
    obtain ⟨hregs, _⟩ := hu
    exact .inl hregs

/-- Settles O37, by the frame of each command's operation. -/
theorem registersAreWrittenOnlyByTheirOperations :
    Obligations.RegistersAreWrittenOnlyByTheirOperations := by
  intro s t h hstep hreset
  rcases h.step_toRegs_cases hstep hreset with hsame | ⟨p, hp, hbusy, hidle, ht, hadmits, hafter⟩
  · exact .inl hsame
  · refine .inr ⟨p, hp, hbusy, ht, hidle, ?_⟩
    obtain ⟨op, after⟩ := p
    obtain rfl : after = operation op s.toRegs := hafter
    cases op with
    | nop => exact hadmits
    | clr => exact ⟨by rw [ht]; rfl, by rw [ht]; rfl⟩
    | key c =>
      obtain ⟨k, hk⟩ := Option.isSome_iff_exists.1 hadmits.2
      simp only [operation, hk] at ht
      simpa only [ht] using storeKey_frame k s.toRegs
    | sched => simp only [ht]; rfl
    | msg c =>
      obtain ⟨m, hm⟩ := Option.isSome_iff_exists.1 hadmits.2
      simp only [operation, hm] at ht
      simp only [ht]
      rfl
    | map c => simp only [ht]; rfl
    | unmap n => simp only [ht]; rfl

end Sys2Proof.Machine
end

section
/-! PROOF. The register map (10_state.md R32, 20_memory.md R52), and what a read of each register returns
while `BUSY = 0` and while `BUSY = 1` (10_state.md R33-R43, 20_memory.md R47). -/

namespace Sys2Proof.Machine

/-! ### The map -/

theorem offset_state_toNat (n : Entry) : (Reg.state n).offset.toNat = 128 + 4 * n.toNat := by
  have := n.isLt
  simp only [Reg.offset, BitVec.toNat_ofNat]
  omega

theorem offset_keybuf_toNat (n : Entry) : (Reg.keybuf n).offset.toNat = 256 + 4 * n.toNat := by
  have := n.isLt
  simp only [Reg.offset, BitVec.toNat_ofNat]
  omega

theorem regAt_of_state {off : Offset} {n : Entry} (h : off.toNat = 128 + 4 * n.toNat) :
    regAt off = some (.state n) := by
  have hn : BitVec.ofNat 5 ((off.toNat - 128) / 4) = n := by bv_omega
  have := n.isLt
  simp only [regAt, hn]
  split_ifs
  any_goals omega
  rfl

theorem regAt_of_keybuf {off : Offset} {n : Entry} (h : off.toNat = 256 + 4 * n.toNat) :
    regAt off = some (.keybuf n) := by
  have hn : BitVec.ofNat 5 ((off.toNat - 256) / 4) = n := by bv_omega
  have := n.isLt
  simp only [regAt, hn]
  split_ifs
  any_goals omega
  rfl

/-- The map holds each register at its own offset (R32). -/
@[simp] theorem regAt_offset (r : Reg) : regAt r.offset = some r := by
  cases r with
  | id | cmd | status | out | result | mcount | ij => rfl
  | state n => exact regAt_of_state (offset_state_toNat n)
  | keybuf n => exact regAt_of_keybuf (offset_keybuf_toNat n)

/-- Only at its own offset is a register found. -/
theorem offset_of_regAt {off : Offset} {r : Reg} (h : regAt off = some r) : r.offset = off := by
  apply BitVec.eq_of_toNat_eq
  simp only [regAt] at h
  split_ifs at h with halign hid hcmd hstatus hout hresult hmcount hij hstate hkeybuf <;> cases h
  · exact hid.symm
  · exact hcmd.symm
  · exact hstatus.symm
  · exact hout.symm
  · exact hresult.symm
  · exact hmcount.symm
  · exact hij.symm
  · rw [offset_state_toNat, BitVec.toNat_ofNat]
    omega
  · rw [offset_keybuf_toNat, BitVec.toNat_ofNat]
    omega

theorem regAt_eq_none_iff (off : Offset) : regAt off = none ↔
    off.toNat % 4 ≠ 0 ∨ (0x01C ≤ off.toNat ∧ off.toNat < 0x080) ∨ 0x180 ≤ off.toNat := by
  simp only [regAt]
  split_ifs <;> simp only [false_iff, true_iff] <;> omega

/-- Settles O9. -/
theorem registerMapIsComplete : Obligations.RegisterMapIsComplete :=
  ⟨fun _ r => ⟨offset_of_regAt, fun h => h ▸ regAt_offset r⟩, regAt_eq_none_iff⟩

/-! ### A read of a register -/

theorem offset_aligned (r : Reg) : r.offset.toNat % 4 = 0 := by
  have hmapped : ¬ regAt r.offset = none := by simp
  rw [regAt_eq_none_iff] at hmapped
  omega

/-- A whole word at a register's offset is a legal access to it (R47, R50, R51). -/
@[simp] theorem accessed_offset (r : Reg) : accessed r.offset .word = some r := by
  simp [accessed, offset_aligned]

/-- A legal read answers the register's word and writes nothing but the draw counter (R47, R54). -/
theorem step_read_register (s : State) (rest : List Input) (r : Reg)
    (h : s.inputs = .request (.read r.offset .word) :: rest) :
    step s = .next { s with
      inputs := rest
      response := some { rdata := readWord r s, err := false }
      draws := s.draws + drawsOf r s } := by
  rw [step_read s rest r.offset .word h]
  simp only [memRead, accessed_offset]
  rfl

/-! ### The layouts of the registers as numbers -/

theorem regValue_out_toNat (s : State) : (regValue .out s).toNat =
    (outSym s.OUT).toNat + 256 * (outIdx s.OUT).toNat + 65536 * (outKs s.OUT).toNat +
      2147483648 * (outValid s.OUT).toNat := by
  simp only [regValue, out_masked, toNat_append_add, BitVec.toNat_ofNat, BitVec.toNat_ofBool]
  omega

theorem regValue_result_toNat (s : State) : (regValue .result s).toNat =
    (resultValue s.RESULT).toNat + 256 * (resultFound s.RESULT).toNat := by
  simp only [regValue, result_masked, toNat_append_add, BitVec.toNat_ofNat, BitVec.toNat_ofBool]
  omega

theorem regValue_state_toNat (s : State) (n : Entry) :
    (regValue (.state n) s).toNat = (permAt s.S n).toNat := by
  simp only [regValue, toNat_append_add, BitVec.toNat_ofNat]
  omega

theorem regValue_keybuf_toNat (s : State) (n : Entry) :
    (regValue (.keybuf n) s).toNat = (keyEntry s.KEY n).toNat := by
  simp only [regValue, keyEntry, toNat_append_add, BitVec.toNat_ofNat]
  omega

/-- Settles O12, register by register. -/
theorem idleReadShowsTheRegister : Obligations.IdleReadShowsTheRegister := by
  intro s rest r hi hidle
  refine ⟨regValue r s, ?_, ?_⟩
  · have hdraws : drawsOf r s = 0 := by simp [drawsOf, hidle]
    rw [step_read_register s rest r hi, readWord_idle r s hidle, hdraws]
    rfl
  · cases r with
    | id | cmd | mcount => rfl
    | status => simpa [regValue, hidle] using statusWord_toNat s
    | out => exact regValue_out_toNat s
    | result => exact regValue_result_toNat s
    | ij => exact ijWord_toNat s.I s.J
    | state n => exact regValue_state_toNat s n
    | keybuf n => exact regValue_keybuf_toNat s n

/-! ### Reads while an operation runs -/

@[simp] theorem unspecifiedBits_state (n : Entry) : unspecifiedBits (.state n) = 0x1F#32 := rfl

@[simp] theorem unspecifiedBits_keybuf (n : Entry) : unspecifiedBits (.keybuf n) = 0x3F#32 := rfl

theorem extractLsb'_toNat_eq_div_mod (w : Word) (k n : Nat) :
    (w.extractLsb' k n).toNat = w.toNat / 2 ^ k % 2 ^ n := by
  rw [BitVec.extractLsb'_toNat, Nat.shiftRight_eq_div_pow]

/-- A field of a register that holds no unspecified bit reads exactly, whether an operation is running or
not (R43). -/
theorem readWord_field (r : Reg) (s : State) (k n : Nat)
    (h : (unspecifiedBits r).extractLsb' k n = 0#n) (hfit : k + n ≤ 32) :
    (readWord r s).toNat / 2 ^ k % 2 ^ n = (regValue r s).toNat / 2 ^ k % 2 ^ n := by
  rw [← extractLsb'_toNat_eq_div_mod, ← extractLsb'_toNat_eq_div_mod]
  cases hb : s.BUSY with
  | false => rw [readWord_idle r s hb]
  | true =>
    congr 1
    apply BitVec.eq_of_getLsbD_eq
    intro i hi
    have hexact := congrArg (BitVec.getLsbD · i) h
    simp only [BitVec.getLsbD_extractLsb', BitVec.getLsbD_zero, hi, decide_true, Bool.true_and]
      at hexact
    have hword : k + i < 32 := by omega
    simp [-BitVec.getLsbD_eq_getElem, readWord_busy r s hb, BitVec.getLsbD_extractLsb',
      BitVec.getLsbD_or, BitVec.getLsbD_and, BitVec.getLsbD_not, hexact, hword]

theorem drawsOf_busy {r : Reg} {s : State} (h : s.BUSY = true) (hr : unspecifiedBits r ≠ 0#32) :
    drawsOf r s = 1 := by
  simp [drawsOf, h, hr]

theorem drawsOf_exact {r : Reg} (s : State) (hr : unspecifiedBits r = 0#32) : drawsOf r s = 0 := by
  simp [drawsOf, hr]

/-- A register without unspecified bits reads as it is (R33, R34). -/
theorem readWord_exact {r : Reg} (s : State) (hr : unspecifiedBits r = 0#32) :
    readWord r s = regValue r s := by
  unfold readWord
  split_ifs
  · rw [hr, BitVec.not_zero, BitVec.and_allOnes, BitVec.and_zero, BitVec.or_zero]
  · rfl

/-- Settles O14: the fields that are exact or reserved hold no unspecified bit, so they read as the
register's layout says. -/
theorem busyReadIsExactOnlyWhereStated : Obligations.BusyReadIsExactOnlyWhereStated := by
  intro s rest r hi hbusy
  refine ⟨readWord r s, s.draws + drawsOf r s, step_read_register s rest r hi, ?_⟩
  cases r with
  | id => exact ⟨readWord_exact s rfl, by rw [drawsOf_exact s rfl]; rfl⟩
  | cmd => exact ⟨readWord_exact s rfl, by rw [drawsOf_exact s rfl]; rfl⟩
  | status =>
    have hflags := readWord_field .status s 0 2 (by decide) (by decide)
    have hreserved := readWord_field .status s 3 1 (by decide) (by decide)
    have hcode := readWord_field .status s 4 4 (by decide) (by decide)
    have hhigh := readWord_field .status s 14 18 (by decide) (by decide)
    have hlayout : (regValue .status s).toNat = _ := statusWord_toNat s
    have := s.ERR.toNat_le
    have := (phaseBit s.PHASE).isLt
    have := (errCodeBits s.ERRCODE).isLt
    have := s.KLEN.isLt
    simp only [hbusy, Bool.toNat_true] at hlayout
    refine ⟨?_, ?_, ?_, ?_, by rw [drawsOf_busy hbusy (by decide)]⟩ <;> omega
  | out =>
    have hlow := readWord_field .out s 14 2 (by decide) (by decide)
    have hhigh := readWord_field .out s 21 10 (by decide) (by decide)
    have hlayout := regValue_out_toNat s
    have := (outSym s.OUT).isLt
    have := (outIdx s.OUT).isLt
    have := (outKs s.OUT).isLt
    refine ⟨?_, ?_, by rw [drawsOf_busy hbusy (by decide)]⟩ <;> omega
  | result =>
    have hhigh := readWord_field .result s 9 23 (by decide) (by decide)
    have hlayout := regValue_result_toNat s
    have := (resultValue s.RESULT).isLt
    have := (resultFound s.RESULT).toNat_le
    exact ⟨by omega, by rw [drawsOf_busy hbusy (by decide)]⟩
  | mcount => rw [drawsOf_busy hbusy (by decide)]
  | ij =>
    have hlow := readWord_field .ij s 5 3 (by decide) (by decide)
    have hhigh := readWord_field .ij s 13 19 (by decide) (by decide)
    have hlayout : (regValue .ij s).toNat = _ := ijWord_toNat s.I s.J
    have := s.I.isLt
    have := s.J.isLt
    refine ⟨?_, ?_, by rw [drawsOf_busy hbusy (by decide)]⟩ <;> omega
  | state n =>
    have hhigh := readWord_field (.state n) s 5 27 (by rw [unspecifiedBits_state]; decide) (by decide)
    have hlayout := regValue_state_toNat s n
    have := (permAt s.S n).isLt
    exact ⟨by omega, by rw [drawsOf_busy hbusy (by simp)]⟩
  | keybuf n =>
    have hhigh := readWord_field (.keybuf n) s 6 26 (by rw [unspecifiedBits_keybuf]; decide) (by decide)
    have hlayout := regValue_keybuf_toNat s n
    have := (keyEntry s.KEY n).isLt
    exact ⟨by omega, by rw [drawsOf_busy hbusy (by simp)]⟩

end Sys2Proof.Machine
end

section
/-! PROOF. The register window and its transactions (20_memory.md R46-R58): where a register's bytes
stand, which accesses are refused, what a write to a register does, and the step of a command write. -/

namespace Sys2Proof.Machine

/-! ### The window -/

/-- The platform's decoding of an address is the inverse of adding `SC_BASE` (R46). -/
theorem windowOffset_eq_some_iff (addr : Nat) (off : Offset) :
    windowOffset addr = some off ↔ addr = Config.scBase + off.toNat := by
  have := off.isLt
  simp only [windowOffset]
  split_ifs with hwindow
  · rw [Option.some.injEq, ← BitVec.toNat_inj, BitVec.toNat_ofNat]
    omega
  · simp only [false_iff]
    omega

/-- The four bytes from a register's offset on are the register's, the least significant first (R49). -/
theorem windowByte_of_offset {off : Offset} {r : Reg} {k : Nat} (s : State) (hk : k < 4)
    (h : off.toNat = r.offset.toNat + k) :
    windowByte off s = some ((regValue r s).extractLsb' (8 * k) 8) := by
  have halign := offset_aligned r
  have hword : off.toNat / 4 * 4 = r.offset.toNat := by omega
  have hlane : off.toNat % 4 = k := by omega
  simp [windowByte, hword, hlane]

/-- Settles O10: a register's offset is a multiple of 4, so its four bytes lie in the window. -/
theorem windowIsLittleEndian : Obligations.WindowIsLittleEndian := by
  refine ⟨Nat.mul_mod_right 4096 Config.scPage, windowOffset_eq_some_iff, fun s r k hk => ?_⟩
  have hoff : (BitVec.ofNat 12 (r.offset.toNat + k)).toNat = r.offset.toNat + k := by
    have := r.offset.isLt
    have := offset_aligned r
    rw [BitVec.toNat_ofNat]
    omega
  refine ⟨BitVec.ofNat 12 (r.offset.toNat + k), ?_, windowByte_of_offset s hk hoff⟩
  rw [windowOffset_eq_some_iff, hoff, Nat.add_assoc]

/-! ### Refused accesses and ignored writes -/

/-- The grounds on which an access is refused: its size, its alignment, or an offset the map does not
list (R50, R51, R52). -/
theorem accessed_eq_none_iff (off : Offset) (size : AccessSize) : accessed off size = none ↔
    size ≠ .word ∨ off.toNat % 4 ≠ 0 ∨ (0x01C ≤ off.toNat ∧ off.toNat < 0x080) ∨
      0x180 ≤ off.toNat := by
  simp only [accessed]
  split_ifs with hsize halign
  · simp [hsize]
  · simp [halign]
  · rw [regAt_eq_none_iff]
    simp only [hsize, false_or]

theorem memRead_refused {off : Offset} {size : AccessSize} (s : State)
    (h : accessed off size = none) : memRead off size s = respond errorResponse s := by
  simp only [memRead, h]

theorem memWrite_refused {off : Offset} {size : AccessSize} (v : Word) (s : State)
    (h : accessed off size = none) : memWrite off size v s = .next (respond errorResponse s) := by
  simp only [memWrite, h]

/-- A legal write to any register but `CMD` is answered and dropped (R53). -/
theorem memWrite_readOnly {off : Offset} {size : AccessSize} {r : Reg} (v : Word) (s : State)
    (h : accessed off size = some r) (hr : r ≠ .cmd) :
    memWrite off size v s = .next (respond okWrite s) := by
  rcases memWrite_cases off size v s with ⟨hnone, _⟩ | ⟨hcmd, _⟩ | ⟨_, _, _, e⟩
  · simp [h] at hnone
  · exact absurd (Option.some.inj (h.symm.trans hcmd)) hr
  · exact e

/-- Settles O11. -/
theorem refusedAccessChangesNothing : Obligations.RefusedAccessChangesNothing := by
  intro s rest off size v hground hi
  have hnone : accessed off size = none := (accessed_eq_none_iff off size).2 hground
  rcases hi with hread | hwrite
  · rw [step_read s rest off size hread, memRead_refused _ hnone]
    rfl
  · rw [step_write s rest off size v hwrite, memWrite_refused v _ hnone]
    rfl

/-- Settles O13. -/
theorem readOnlyWriteIsIgnored : Obligations.ReadOnlyWriteIsIgnored := by
  intro s rest r v hr hi
  rw [step_write s rest r.offset .word v hi, memWrite_readOnly v _ (accessed_offset r) hr]
  rfl

/-! ### The step of a command write -/

theorem submitCommand_of_decode {w : Word} {i : Instr} (s : State) (h : decode w = .command i) :
    submitCommand w s = exec i s := by
  simp only [submitCommand, h]

/-- A write of a command word is that command's submission, answered OK (R48, R58). -/
theorem step_cmdWrite_of_decode {s : State} {rest : List Input} {w : Word} {i : Instr}
    (hi : s.inputs = cmdWrite w :: rest) (hd : decode w = .command i) :
    step s = answerOk (exec i (takeInput rest s)) := by
  rw [step_cmdWrite s rest w hi, submitCommand_of_decode _ hd]

/-- `withFetchWord` with all 32 bits puts a write of the whole word ahead of the other events. -/
theorem withFetchWord_inputs_word (s : State) (w : Word) :
    (s.withFetchWord 32 w.toNat).inputs = cmdWrite w :: s.inputs := by
  rw [withFetchWord_inputs, Nat.mod_eq_of_lt w.isLt, BitVec.ofNat_toNat, BitVec.setWidth_eq]

/-- Taking the placed word leaves the state it was placed in, without its response. -/
theorem takeInput_withFetchWord (s : State) (nbits w : Nat) :
    takeInput s.inputs (s.withFetchWord nbits w) = { s with response := none } := rfl

/-- Settles O15. -/
theorem stepRunsDecodedCommand : Obligations.StepRunsDecodedCommand := by
  refine ⟨fun s rest w i hi hd t ht => ?_, fun s w i hd t ht => ?_⟩
  · have htaken : exec i (takeInput rest s) = .next t := ht
    rw [step_cmdWrite_of_decode hi hd, htaken]
    rfl
  · rw [step_cmdWrite_of_decode (withFetchWord_inputs_word s w) hd, takeInput_withFetchWord, ht]
    rfl

end Sys2Proof.Machine
end

section
/-! PROOF. The decoder and the encoder of `CMD32` (30_encoding.md R65-R70): the three fields of a word as
numbers, what the decoder answers by them, and which words are commands. -/

namespace Sys2Proof

open Sys2Proof.Machine

/-! ### The fields of a word as numbers (R66) -/

theorem rsvdField_toNat (w : Word) : (rsvdField w).toNat = w.toNat / 4096 := by
  have := w.isLt
  rw [rsvdField, extractLsb'_toNat_eq_div_mod]
  omega

theorem opField_toNat (w : Word) : (opField w).toNat = w.toNat / 256 % 16 :=
  extractLsb'_toNat_eq_div_mod w 8 4

theorem argField_eq_ofNat (w : Word) : argField w = BitVec.ofNat 8 (w.toNat % 256) := by
  apply BitVec.eq_of_toNat_eq
  simp [argField]

theorem rsvdField_eq_zero_iff (w : Word) : rsvdField w = 0#20 ↔ w.toNat / 4096 = 0 := by
  rw [← BitVec.toNat_inj, rsvdField_toNat]
  rfl

/-! ### What the decoder answers -/

/-- The command with the operand replaced by `ARG`; `NOP`, `CLR` and `SCHED` ignore it (R67, R70). -/
def Instr.withOperand (i : Instr) (arg : Byte) : Instr :=
  match i with
  | .nop => .nop
  | .clr => .clr
  | .key _ => .key arg
  | .sched => .sched
  | .msg _ => .msg arg
  | .map _ => .map arg
  | .unmap _ => .unmap arg

@[simp] theorem Instr.withOperand_operand (i : Instr) : i.withOperand (operand i) = i := by
  cases i <;> rfl

/-- A word with zero reserved bits and the opcode of a command is that command, `ARG` its operand. -/
theorem decode_of_opcode {w : Word} (i : Instr) (hrsvd : w.toNat / 4096 = 0)
    (hop : w.toNat / 256 % 16 = (opcode i).toNat) :
    decode w = .command (i.withOperand (argField w)) := by
  have hzero : rsvdField w = 0#20 := (rsvdField_eq_zero_iff w).2 hrsvd
  have hcode : (opField w).toNat = (opcode i).toNat := (opField_toNat w).trans hop
  rw [decode, if_neg (not_not_intro hzero), hcode]
  cases i <;> rfl

theorem decode_of_reservedBits {w : Word} (h : w.toNat / 4096 ≠ 0) :
    decode w = .illegal .reservedBits := by
  have hrsvd : rsvdField w ≠ 0#20 := fun e => h ((rsvdField_eq_zero_iff w).1 e)
  rw [decode, if_pos hrsvd]

theorem decode_of_reservedOpcode {w : Word} (hrsvd : w.toNat / 4096 = 0)
    (hop : 7 ≤ w.toNat / 256 % 16) : decode w = .illegal .reservedOpcode := by
  have hzero : rsvdField w = 0#20 := (rsvdField_eq_zero_iff w).2 hrsvd
  rw [← opField_toNat] at hop
  rw [decode, if_neg (not_not_intro hzero)]
  split
  any_goals omega
  rfl

/-- Both grounds on which a word is illegal (R69). -/
theorem exists_decode_eq_illegal {w : Word} (h : w.toNat / 4096 ≠ 0 ∨ 7 ≤ w.toNat / 256 % 16) :
    ∃ why, decode w = .illegal why := by
  by_cases hrsvd : w.toNat / 4096 = 0
  · exact ⟨_, decode_of_reservedOpcode hrsvd (h.resolve_left (not_not_intro hrsvd))⟩
  · exact ⟨_, decode_of_reservedBits hrsvd⟩

/-! ### The canonical word of a command -/

theorem encode_toNat (i : Instr) :
    (encode i).toNat = (opcode i).toNat * 256 + (operand i).toNat :=
  Laws.EncodedFields.toNat_fields (opcode i) (operand i)

theorem argField_encode (i : Instr) : argField (encode i) = operand i := by
  obtain ⟨_, _, harg⟩ := Laws.EncodedFields.fields_of_append (opcode i) (operand i)
  exact harg

/-- The word of a command has zero reserved bits and the command's opcode, so the decoder reads the
command with the operand it was assembled with. -/
@[simp] theorem decode_encode (i : Instr) : decode (encode i) = .command i := by
  have hword := encode_toNat i
  have := (opcode i).isLt
  have := (operand i).isLt
  rw [decode_of_opcode i (by omega) (by omega), argField_encode, Instr.withOperand_operand]

/-- Settles O1. -/
theorem encodeThenDecodeIsIdentity : Obligations.EncodeThenDecodeIsIdentity :=
  fun i => ⟨decode_encode i, encode_toNat i⟩

/-- Settles O4: each example is the canonical word of its command. -/
theorem exampleWordsDecode : Obligations.ExampleWordsDecode :=
  ⟨decode_encode (.key 0x6B), decode_encode (.msg 0x20), decode_encode (.unmap 36),
    decode_encode .clr, decode_encode .sched, decode_encode (.map 0x78), decode_encode .nop⟩

/-! ### How many words are commands -/

/-- The opcodes below 7 are the seven of the table (R68). -/
theorem exists_opcode_toNat_eq : ∀ {n : Nat}, n < 7 → ∃ i, (opcode i).toNat = n
  | 0, _ => ⟨.nop, rfl⟩
  | 1, _ => ⟨.clr, rfl⟩
  | 2, _ => ⟨.key 0, rfl⟩
  | 3, _ => ⟨.sched, rfl⟩
  | 4, _ => ⟨.msg 0, rfl⟩
  | 5, _ => ⟨.map 0, rfl⟩
  | 6, _ => ⟨.unmap 0, rfl⟩

/-- The words that are commands are the smallest 1792: zero reserved bits and an opcode below 7 (R70). -/
theorem exists_decode_eq_command_iff (w : Word) :
    (∃ i, decode w = .command i) ↔ w.toNat < 1792 := by
  constructor
  · rintro ⟨i, hi⟩
    by_contra hlarge
    obtain ⟨why, hwhy⟩ := exists_decode_eq_illegal (w := w) (by omega)
    rw [hwhy] at hi
    cases hi
  · intro hsmall
    obtain ⟨i, hi⟩ := exists_opcode_toNat_eq (n := w.toNat / 256) (by omega)
    exact ⟨_, decode_of_opcode i (by omega) (by omega)⟩

theorem decodeTableWord_isSome_iff {n : Nat} (h : n < 2 ^ 32) :
    (decodeTableWord 32 n).isSome ↔ n < 1792 := by
  have hword : (BitVec.ofNat 32 (n % 2 ^ 32)).toNat = n := by
    rw [BitVec.toNat_ofNat]
    omega
  have hcommand := exists_decode_eq_command_iff (BitVec.ofNat 32 (n % 2 ^ 32))
  rw [hword] at hcommand
  rw [← hcommand, decodeTableWord]
  cases decode (BitVec.ofNat 32 (n % 2 ^ 32)) <;> simp

/-- The count of R70: seven opcodes with 256 values of `ARG` each. -/
theorem card_commandWords :
    ((Finset.range (2 ^ 32)).filter fun n => (decodeTableWord 32 n).isSome).card = 1792 := by
  have hwords : ((Finset.range (2 ^ 32)).filter fun n => (decodeTableWord 32 n).isSome) =
      Finset.range 1792 := by
    ext n
    rw [Finset.mem_filter, Finset.mem_range, Finset.mem_range]
    constructor
    · rintro ⟨hn, hsome⟩
      exact (decodeTableWord_isSome_iff hn).1 hsome
    · intro hn
      have hn32 : n < 2 ^ 32 := by omega
      exact ⟨hn32, (decodeTableWord_isSome_iff hn32).2 hn⟩
  rw [hwords, Finset.card_range]

/-- Settles O2, opcode by opcode. -/
theorem decoderFollowsOpcodeMap : Obligations.DecoderFollowsOpcodeMap := by
  refine ⟨fun w => ⟨fun hrsvd => exists_decode_eq_illegal (.inl hrsvd), fun hrsvd => ?_⟩,
    card_commandWords⟩
  rw [← argField_eq_ofNat]
  exact ⟨decode_of_opcode .nop hrsvd, decode_of_opcode .clr hrsvd, decode_of_opcode (.key 0) hrsvd,
    decode_of_opcode .sched hrsvd, decode_of_opcode (.msg 0) hrsvd, decode_of_opcode (.map 0) hrsvd,
    decode_of_opcode (.unmap 0) hrsvd, fun hop => exists_decode_eq_illegal (.inr hop)⟩

end Sys2Proof
end

section
/-! PROOF. The assembler (30_encoding.md R71) and the symbols it takes quoted (41_alphabet_mapper.md R74,
R75). -/

namespace Sys2Proof

open Sys2Proof.Machine

theorem assemble_of_wf {a : AsmCommand} (h : a.wf = true) : assemble a = some (encode (asmInstr a)) := by
  simp only [assemble, h, if_true]

theorem assemble_of_not_wf {a : AsmCommand} (h : a.wf = false) : assemble a = none := by
  simp [assemble, h]

/-- The two ranges of symbols are two stretches of the alphabet (R74). -/
theorem mem_alphabet_of_range {c : Char}
    (h : (97 ≤ c.toNat ∧ c.toNat ≤ 122) ∨ (48 ≤ c.toNat ∧ c.toNat ≤ 57)) : c ∈ Source.alphabet := by
  simp only [Source.alphabet, List.cons_append, List.mem_cons, List.mem_append, List.mem_map,
    List.mem_range]
  rcases h with ⟨hlow, hhigh⟩ | ⟨hlow, hhigh⟩
  · refine .inr (.inl ⟨c.toNat - 97, by omega, ?_⟩)
    rw [Nat.add_sub_cancel' hlow, Char.ofNat_toNat]
  · refine .inr (.inr ⟨c.toNat - 48, by omega, ?_⟩)
    rw [Nat.add_sub_cancel' hlow, Char.ofNat_toNat]

/-- The characters that may be quoted are symbols of the alphabet (R71). -/
theorem mem_alphabet_of_symbolChar {c : Char} (h : symbolChar c = true) : c ∈ Source.alphabet := by
  simp only [symbolChar, Bool.or_eq_true, Bool.and_eq_true, beq_iff_eq, decide_eq_true_eq] at h
  rcases h with (rfl | hletter) | hdigit
  · exact List.mem_cons_self
  · exact mem_alphabet_of_range (.inl hletter)
  · exact mem_alphabet_of_range (.inr hdigit)

/-- At each of the 37 places of the alphabet the search finds the symbol there, and `Lookup` of the
symbol's ASCII code gives the place (R75, R76). -/
theorem lookup_place : ∀ n : Fin Source.alphabet.length,
    Source.indexOf (Source.alphabet.get n) = some n.val ∧
      lookup (asmOperandBits (.quoted (Source.alphabet.get n))) = some (BitVec.ofNat 6 n.val) := by
  decide

/-- Settles O5. -/
theorem assemblerAgreesWithDecoder : Obligations.AssemblerAgreesWithDecoder := by
  refine ⟨fun a => assemble_of_not_wf, fun a hwf => ⟨_, assemble_of_wf hwf, decode_encode _⟩,
    fun c hc => ?_⟩
  obtain ⟨n, rfl⟩ := List.get_of_mem (mem_alphabet_of_symbolChar hc)
  exact ⟨n.val, lookup_place n⟩

end Sys2Proof
end

section
/-! PROOF. The submission of an illegal word (30_encoding.md R69, 60_exceptions.md R107, R108). -/

namespace Sys2Proof.Machine

/-- An error's whole effect: the latch is set, and keeps the code of an earlier error (R107). -/
theorem raise_eq (e : ErrCode) (s : State) :
    raise e s = { s with ERR := true, ERRCODE := if s.ERR then s.ERRCODE else e } := by
  cases h : s.ERR with
  | false => rw [raise_of_clear e s h]; rfl
  | true => rw [raise_of_latched e s h, if_pos rfl, ← h]

/-- An illegal word submitted to an idle machine raises `ILLEGAL_CMD` (R69, R108). -/
theorem submitCommand_illegal {w : Word} {s : State} {why : IllegalWord} (hw : decode w = .illegal why)
    (hidle : s.BUSY = false) : submitCommand w s = .next (raise .illegalCmd s) := by
  rcases submitCommand_cases w s with ⟨_, _, hraise⟩ | ⟨i, hi, _⟩
  · rw [hraise, hidle]
    rfl
  · rw [hi] at hw
    cases hw

/-- A word below 256 is `NOP` whatever its `ARG` (R69). -/
theorem decode_setWidth_byte (a : Byte) : decode (a.setWidth 32) = .command .nop := by
  have hword : (a.setWidth 32).toNat = a.toNat := BitVec.toNat_setWidth_of_le (by decide)
  have := a.isLt
  exact decode_of_opcode .nop (by omega) (show _ = 0 by omega)

/-- Settles O3. -/
theorem illegalWordRaisesIllegalCmd : Obligations.IllegalWordRaisesIllegalCmd := by
  refine ⟨fun s w rest hi hidle hfields => ?_, decode_setWidth_byte⟩
  obtain ⟨why, hwhy⟩ := exists_decode_eq_illegal hfields
  have hsubmit : submitCommand w (takeInput rest s) = .next (raise .illegalCmd (takeInput rest s)) :=
    submitCommand_illegal hwhy hidle
  rw [step_cmdWrite s rest w hi, hsubmit, raise_eq]
  rfl

end Sys2Proof.Machine
end

section
/-! PROOF. The alphabet ROM and its two functions (41_alphabet_mapper.md R75-R78): the ROM is the table
of `Unmap`, and `Lookup` is its inverse. -/

namespace Sys2Proof.Machine

/-- The arithmetic form of `Unmap` lists the table of R75. -/
theorem alphabetRom_eq_map_unmap :
    alphabetRom = (List.range 37).map fun n => unmap (BitVec.ofNat 6 n) := by
  decide

theorem alphabetRom_getElem?_eq_some_iff (n : Nat) (c : Code) :
    alphabetRom[n]? = some c ↔ n < 37 ∧ unmap (BitVec.ofNat 6 n) = c := by
  rw [alphabetRom_eq_map_unmap, List.getElem?_map]
  by_cases hn : n < 37 <;> simp [hn]

/-- The ROM at a 6-bit index. -/
theorem alphabetRom_getElem?_index (k : Index) (c : Code) :
    alphabetRom[k.toNat]? = some c ↔ k.toNat < 37 ∧ unmap k = c := by
  rw [alphabetRom_getElem?_eq_some_iff, BitVec.ofNat_toNat, BitVec.setWidth_eq]

/-- The symbol an index found stands for is the code looked up: one range of codes after the other. -/
theorem unmap_of_lookup {c : Code} {k : Index} (h : lookup c = some k) : unmap k = c := by
  unfold lookup at h
  split_ifs at h with hspace hletter hdigit
  · cases h
    exact hspace.symm
  all_goals
    obtain rfl := Option.some.inj h
    apply BitVec.eq_of_toNat_eq
    unfold unmap
    split_ifs <;> bv_omega

theorem lookup_of_letter {c : Code} {k : Index} (hk : 1 ≤ k.toNat ∧ k.toNat ≤ 26)
    (hc : c.toNat = k.toNat + 0x60) : lookup c = some k := by
  rw [lookup, if_neg (by bv_omega), if_pos (by omega), hc, Nat.add_sub_cancel, BitVec.ofNat_toNat,
    BitVec.setWidth_eq]

theorem lookup_of_digit {c : Code} {k : Index} (hk : 27 ≤ k.toNat ∧ k.toNat ≤ 36)
    (hc : c.toNat = k.toNat + 0x15) : lookup c = some k := by
  rw [lookup, if_neg (by bv_omega), if_neg (by omega), if_pos (by omega),
    show c.toNat - 0x30 + 27 = k.toNat by omega, BitVec.ofNat_toNat, BitVec.setWidth_eq]

/-- The code of every index of the alphabet is found there: space, the letters, the digits. -/
theorem lookup_unmap {k : Index} (hk : k.toNat < 37) : lookup (unmap k) = some k := by
  unfold unmap
  split_ifs with hspace hletter
  · rw [hspace]
    rfl
  · exact lookup_of_letter ⟨by bv_omega, hletter⟩ (by rw [BitVec.toNat_ofNat]; omega)
  · exact lookup_of_digit ⟨by omega, by omega⟩ (by rw [BitVec.toNat_ofNat]; omega)

/-- `Lookup` is the inverse of `Unmap` on the 37 indices (R78). -/
theorem lookup_eq_some_iff (c : Code) (k : Index) :
    lookup c = some k ↔ k.toNat < 37 ∧ unmap k = c := by
  constructor
  · intro h
    exact ⟨Nat.lt_succ_of_le (lookup_le h), unmap_of_lookup h⟩
  · rintro ⟨hk, rfl⟩
    exact lookup_unmap hk

/-- Settles O6: both sides say that `Unmap` gives the code at an index below 37. -/
theorem lookupSearchesTheRom : Obligations.LookupSearchesTheRom := by
  intro c k
  rw [lookup_eq_some_iff, alphabetRom_getElem?_index]

theorem lookup_isSome_iff_mem (c : Code) : (lookup c).isSome ↔ c ∈ alphabetRom := by
  rw [Option.isSome_iff_exists, List.mem_iff_getElem?]
  constructor
  · rintro ⟨k, hk⟩
    exact ⟨k.toNat, (lookupSearchesTheRom c k).1 hk⟩
  · rintro ⟨n, hn⟩
    obtain ⟨hlt, hcode⟩ := (alphabetRom_getElem?_eq_some_iff n c).1 hn
    exact ⟨BitVec.ofNat 6 n, (lookup_eq_some_iff c _).2 ⟨by rw [BitVec.toNat_ofNat]; omega, hcode⟩⟩

theorem alphabetRom_nodup : alphabetRom.Nodup := by decide

/-- The codes that are found are those of the ROM, each once. -/
theorem foundCodes_perm_alphabetRom :
    ((List.range 256).filter fun n => (lookup (BitVec.ofNat 8 n)).isSome).Perm
      (alphabetRom.map BitVec.toNat) := by
  have hnodup : (alphabetRom.map BitVec.toNat).Nodup :=
    alphabetRom_nodup.map fun _ _ => BitVec.eq_of_toNat_eq
  rw [List.perm_ext_iff_of_nodup (List.nodup_range.filter _) hnodup]
  intro n
  rw [List.mem_filter, List.mem_range, lookup_isSome_iff_mem, List.mem_map]
  constructor
  · rintro ⟨hn, hmem⟩
    exact ⟨_, hmem, Nat.mod_eq_of_lt hn⟩
  · rintro ⟨c, hmem, rfl⟩
    exact ⟨c.isLt, by simpa using hmem⟩

/-- Settles O7, from the inverse law, the ROM as the table of `Unmap`, and the found codes as those of
the ROM. -/
theorem lookupAndUnmapAreInverse : Obligations.LookupAndUnmapAreInverse := by
  refine ⟨fun n hn => ⟨lookup_unmap hn, (alphabetRom_getElem?_index n _).2 ⟨hn, rfl⟩⟩,
    fun c k h => (lookup_eq_some_iff c k).1 h, ?_⟩
  rw [foundCodes_perm_alphabetRom.length_eq, List.length_map]
  rfl

end Sys2Proof.Machine
end

section
/-! PROOF. The diagnostic commands `MAP` and `UNMAP` (41_alphabet_mapper.md R80, R81): their words, their
acceptance and their completion. -/

namespace Sys2Proof.Machine

theorem mapWord_toNat_of_found {c : Code} {k : Index} (h : lookup c = some k) :
    (mapWord c).toNat = 256 + k.toNat := by
  have hword : mapWord c = foundWord (k.setWidth 8) := by simp [mapWord, symbolOperand, h]
  rw [hword, foundWord_toNat, BitVec.toNat_setWidth_of_le (by decide)]

theorem mapWord_of_notFound {c : Code} (h : lookup c = none) : mapWord c = 0#32 := by
  simp [mapWord, symbolOperand, h]

theorem unmapWord_toNat_of_rom {n : Byte} {c : Code} (h : alphabetRom[n.toNat]? = some c) :
    (unmapWord n).toNat = 256 + c.toNat := by
  obtain ⟨hn, hcode⟩ := (alphabetRom_getElem?_eq_some_iff n.toNat c).1 h
  have hword : unmapWord n = foundWord c := by
    simp [unmapWord, indexOperand, hn, ← hcode]
  rw [hword, foundWord_toNat]

theorem unmapWord_of_ge {n : Byte} (h : 37 ≤ n.toNat) : unmapWord n = 0#32 := by
  simp [unmapWord, indexOperand, Nat.not_lt.2 h]

theorem exec_map_idle {s : State} (c : Code) (hidle : s.BUSY = false) :
    exec (.map c) s = .next (accept (.map c) (storeResult (mapWord c) s.toRegs) s) :=
  whenIdle_idle s _ hidle

theorem exec_unmap_idle {s : State} (n : Byte) (hidle : s.BUSY = false) :
    exec (.unmap n) s = .next (accept (.unmap n) (storeResult (unmapWord n) s.toRegs) s) :=
  whenIdle_idle s _ hidle

/-- From acceptance on an idle machine to completion, a diagnostic command writes `RESULT` alone. -/
theorem engineTurn_accept_storeResult {s : State} (i : Instr) (w : Word) (hidle : s.BUSY = false) :
    engineTurn (accept i (storeResult w s.toRegs) s) = { s with RESULT := w, PENDING := none } := by
  rw [engineTurn_pending _ _ rfl rfl, ← hidle]
  rfl

/-- Settles O27. -/
theorem mapReportsIndex : Obligations.MapReportsIndex := by
  intro s c hidle
  exact ⟨_, mapWord c, exec_map_idle c hidle, rfl, rfl, rfl, rfl,
    engineTurn_accept_storeResult _ _ hidle, fun _ => mapWord_toNat_of_found, mapWord_of_notFound⟩

/-- Settles O28. -/
theorem unmapReportsCode : Obligations.UnmapReportsCode := by
  intro s n hidle
  exact ⟨_, unmapWord n, exec_unmap_idle n hidle, rfl, rfl, rfl, rfl,
    engineTurn_accept_storeResult _ _ hidle, fun _ => unmapWord_toNat_of_rom, unmapWord_of_ge⟩

end Sys2Proof.Machine
end

section
/-! PROOF. The machine's permutation, key buffer and key schedule as the lists of numbers the source's
function works on (42_key_schedule.md R82, R83). -/

namespace Sys2Proof.Machine

/-! ### The permutation as a list -/

@[simp] theorem permList_length (p : Perm) : (permList p).length = 32 := by
  simp [permList]

theorem permList_getD (p : Perm) (n : Entry) : (permList p).getD n.toNat 0 = (permAt p n).toNat := by
  have hn : n.toNat < (permList p).length := by simpa using n.isLt
  rw [List.getD_eq_getElem _ _ hn]
  simp [permList, permAt]

theorem permList_permSet (p : Perm) (n v : Entry) :
    permList (permSet p n v) = (permList p).set n.toNat v.toNat := by
  simp only [permList, permSet, Vector.toList_set, List.map_set]

theorem permList_swap (p : Perm) (a b : Entry) :
    permList (swap p a b) = Source.exchange (permList p) a.toNat b.toNat := by
  simp only [swap, Source.exchange, permList_permSet, permList_getD]

theorem permList_identityPerm : permList identityPerm = List.range 32 := by decide

/-! ### The key buffer as a list -/

theorem keyList_length (key : KeyBuf) {klen : BitVec 6} (h : klen.toNat ≤ 32) :
    (keyList key klen).length = klen.toNat := by
  simp [keyList, h]

/-- The list of the held entries reads as the buffer does. -/
theorem keyList_getD (key : KeyBuf) {klen : BitVec 6} (h : klen.toNat ≤ 32) {n : Entry}
    (hn : n.toNat < klen.toNat) : (keyList key klen).getD n.toNat 0 = (keyEntry key n).toNat := by
  have hlen : n.toNat < (keyList key klen).length := by rwa [keyList_length key h]
  rw [List.getD_eq_getElem _ _ hlen]
  simp [keyList, keyEntry]

/-- `KEY[k mod KLEN]` is the entry of the buffer at that position. -/
theorem keyAt_eq_keyEntry (key : KeyBuf) (klen : BitVec 6) (k : Entry) :
    keyAt key klen k = keyEntry key (BitVec.ofNat 5 (k.toNat % klen.toNat)) := by
  have hk : k.toNat % klen.toNat < 2 ^ 5 := Nat.lt_of_le_of_lt (Nat.mod_le _ _) k.isLt
  simp only [keyAt, keyEntry, BitVec.toNat_ofNat, Nat.mod_eq_of_lt hk]

/-- The cyclic reads of the machine's key are those of the list of its held entries. -/
theorem keyList_getD_mod (key : KeyBuf) {klen : BitVec 6} (hpos : 1 ≤ klen.toNat)
    (h : klen.toNat ≤ 32) (k : Entry) :
    (keyList key klen).getD (k.toNat % (keyList key klen).length) 0 = (keyAt key klen k).toNat := by
  have hmod : k.toNat % klen.toNat < klen.toNat := Nat.mod_lt _ hpos
  have hidx : (BitVec.ofNat 5 (k.toNat % klen.toNat)).toNat = k.toNat % klen.toNat :=
    Nat.mod_eq_of_lt (by omega)
  rw [keyAt_eq_keyEntry, ← keyList_getD key h (by rwa [hidx]), hidx, keyList_length key h]

/-! ### The schedule -/

/-- The schedule's permutation and accumulator as the numbers the source's pass maintains. -/
def sourceState (sj : Perm × Entry) : List Nat × Nat := (permList sj.1, sj.2.toNat)

/-- One step of the machine's schedule is one step of the source's pass (R82). -/
theorem sourceState_ksaStep (key : KeyBuf) {klen : BitVec 6} (hpos : 1 ≤ klen.toNat)
    (h : klen.toNat ≤ 32) (k : Entry) (sj : Perm × Entry) :
    sourceState (ksaStep key klen k sj) =
      Source.scheduleStep (keyList key klen) (sourceState sj) k.toNat := by
  simp only [sourceState, ksaStep, Source.scheduleStep, permList_swap, permList_getD,
    keyList_getD_mod key hpos h, BitVec.toNat_ofNat, Nat.reducePow, Nat.mod_mod]

/-- The first `n` steps of both schedules, from the identity and `j = 0` (R83). -/
theorem sourceState_ksaRun (key : KeyBuf) {klen : BitVec 6} (hpos : 1 ≤ klen.toNat)
    (h : klen.toNat ≤ 32) {n : Nat} (hn : n ≤ 32) :
    sourceState (ksaRun key klen n) =
      (List.range n).foldl (Source.scheduleStep (keyList key klen)) (List.range 32, 0) := by
  induction n with
  | zero => simp only [ksaRun, sourceState, permList_identityPerm]; rfl
  | succ n ih =>
    have hidx : (BitVec.ofNat 5 n).toNat = n := Nat.mod_eq_of_lt (by omega)
    rw [ksaRun, sourceState_ksaStep key hpos h, hidx, ih (by omega),
      List.range_succ (n := n), List.foldl_concat]

/-- Settles O38, by the simulation of each of the 32 steps. -/
theorem keyScheduleIsTheSources : Obligations.KeyScheduleIsTheSources := by
  intro key klen hpos h
  refine ⟨?_, isPermutation_ksa key klen⟩
  rw [ksa_eq, Source.schedule, ← sourceState_ksaRun key hpos h le_rfl, sourceState]

end Sys2Proof.Machine
end

section
/-! PROOF. What of the key the schedule depends on: the low five bits of the 32 entries it reads
(42_key_schedule.md R84-R86). -/

namespace Sys2Proof.Machine

/-- A step depends on the key term modulo 32 alone (R84, R85). -/
theorem ksaStep_congr {key key' : KeyBuf} {klen klen' : BitVec 6} {k : Entry}
    (h : (keyAt key klen k).toNat % 32 = (keyAt key' klen' k).toNat % 32) (sj : Perm × Entry) :
    ksaStep key klen k sj = ksaStep key' klen' k sj := by
  simp only [ksaStep, Nat.add_mod _ (BitVec.toNat (keyAt _ _ k)), h]

theorem ksa_congr {key key' : KeyBuf} {klen klen' : BitVec 6}
    (h : ∀ k : Entry, (keyAt key klen k).toNat % 32 = (keyAt key' klen' k).toNat % 32) :
    ksa key klen = ksa key' klen' := by
  have hrun (n : Nat) : ksaRun key klen n = ksaRun key' klen' n := by
    induction n with
    | zero => rfl
    | succ n ih => rw [ksaRun, ksaRun, ih, ksaStep_congr (h _)]
  rw [ksa_eq, ksa_eq, hrun]

/-- Settles O39: every entry the schedule reads is an entry of the buffer. -/
theorem keyIndicesCountModuloThirtyTwo : Obligations.KeyIndicesCountModuloThirtyTwo := by
  intro key key' klen h
  apply ksa_congr
  intro k
  rw [keyAt_eq_keyEntry, keyAt_eq_keyEntry]
  exact h _

/-- The source's pass reads the key at the first 32 positions of its cyclic extension alone (R86). -/
theorem Source.schedule_congr {k k' : List Nat}
    (h : ∀ n, n < 32 → k.getD (n % k.length) 0 = k'.getD (n % k'.length) 0) :
    Source.schedule k = Source.schedule k' := by
  have hstep (sj : List Nat × Nat) (n : Nat) (hn : n ∈ List.range 32) :
      Source.scheduleStep k sj n = Source.scheduleStep k' sj n := by
    rw [Source.scheduleStep, Source.scheduleStep, h n (List.mem_range.1 hn)]
  rw [Source.schedule, Source.schedule, List.foldl_ext _ _ _ hstep]

/-- Keeping 32 entries of a key changes none of its first 32 cyclic reads: a key that loses entries is
longer than 32, and its reads below 32 do not wrap (R87). -/
theorem getD_mod_length_take (k : List Nat) {n : Nat} (hn : n < 32) :
    (k.take 32).getD (n % (k.take 32).length) 0 = k.getD (n % k.length) 0 := by
  by_cases hlen : k.length ≤ 32
  · rw [List.take_of_length_le hlen]
  · have htake : (k.take 32).length = 32 := List.length_take_of_le (by omega)
    have hwhole : n % k.length = n := Nat.mod_eq_of_lt (by omega)
    simp only [htake, Nat.mod_eq_of_lt hn, hwhole, List.getD_eq_getElem?_getD,
      List.getElem?_take_of_lt hn]

/-- Settles O40. -/
theorem cyclicallyEqualKeysScheduleAlike : Obligations.CyclicallyEqualKeysScheduleAlike := by
  refine ⟨fun key key' klen klen' h => ksa_congr fun k => by rw [h k],
    fun k k' => Source.schedule_congr, fun k _ => ?_⟩
  exact Source.schedule_congr fun n hn => (getD_mod_length_take k hn).symm

end Sys2Proof.Machine
end

section
/-! PROOF. Loading the key (42_key_schedule.md R87, R89): a stored symbol appends to the list of the held
entries, which is cut at 32. -/

namespace Sys2Proof.Machine

theorem storeKey_KLEN_toNat (k : Index) (r : Regs) (h : r.KLEN.toNat ≤ 32) :
    (storeKey k r).KLEN.toNat = min (r.KLEN.toNat + 1) 32 := by
  by_cases hroom : r.KLEN.toNat < 32
  · rw [storeKey_of_room k r hroom]
    bv_omega
  · rw [storeKey_of_full k r (by omega)]
    omega

theorem keyList_storeKey (k : Index) (r : Regs) (h : r.KLEN.toNat ≤ 32) :
    keyList (storeKey k r).KEY (storeKey k r).KLEN =
      (keyList r.KEY r.KLEN ++ [k.toNat]).take 32 := by
  by_cases hroom : r.KLEN.toNat < 32
  · have hnext : (r.KLEN + 1).toNat = r.KLEN.toNat + 1 := by bv_omega
    have hlen : (keyList r.KEY r.KLEN ++ [k.toNat]).length ≤ 32 := by
      rw [List.length_append, keyList_length _ h]
      exact hroom
    rw [storeKey_of_room k r hroom, List.take_of_length_le hlen]
    simp only [keyList, hnext, Vector.toList_set, List.take_add_one, List.take_set_of_le le_rfl]
    simp [hroom]
  · rw [storeKey_of_full k r (by omega)]
    exact (List.take_left' (by rw [keyList_length _ h]; omega)).symm

/-- The registers after the key indices `ks` have been stored, oldest first. -/
def storeKeys (ks : List Index) (r : Regs) : Regs := ks.foldl (fun r k => storeKey k r) r

/-- What comes after a cut does not bring back what the cut removed. -/
theorem take_take_append (n : Nat) (l m : List Nat) : (l.take n ++ m).take n = (l ++ m).take n := by
  have hleft : n - min n l.length = n - l.length := by omega
  simp only [List.take_append, List.take_take, List.length_take, Nat.min_self, hleft]

theorem storeKeys_KLEN_le (ks : List Index) (r : Regs) (h : r.KLEN.toNat ≤ 32) :
    (storeKeys ks r).KLEN.toNat ≤ 32 := by
  induction ks generalizing r with
  | nil => exact h
  | cons k ks ih => exact ih _ (by rw [storeKey_KLEN_toNat k r h]; omega)

/-- Loading appends the indices to those held, and keeps the first 32. -/
theorem keyList_storeKeys (ks : List Index) (r : Regs) (h : r.KLEN.toNat ≤ 32) :
    keyList (storeKeys ks r).KEY (storeKeys ks r).KLEN =
      (keyList r.KEY r.KLEN ++ ks.map BitVec.toNat).take 32 := by
  induction ks generalizing r with
  | nil =>
    rw [List.map_nil, List.append_nil, List.take_of_length_le (by rwa [keyList_length _ h])]
    rfl
  | cons k ks ih =>
    have hnext : (storeKey k r).KLEN.toNat ≤ 32 := by rw [storeKey_KLEN_toNat k r h]; omega
    calc keyList (storeKeys (k :: ks) r).KEY (storeKeys (k :: ks) r).KLEN
        = (keyList (storeKey k r).KEY (storeKey k r).KLEN ++ ks.map BitVec.toNat).take 32 :=
          ih _ hnext
      _ = (keyList r.KEY r.KLEN ++ (k :: ks).map BitVec.toNat).take 32 := by
          rw [keyList_storeKey k r h, take_take_append, List.append_assoc]
          rfl

/-- A new session's key, loaded: its first 32 indices. -/
theorem keyList_storeKeys_of_empty (ks : List Index) {r : Regs} (h : r.KLEN = 0) :
    keyList (storeKeys ks r).KEY (storeKeys ks r).KLEN = (ks.map BitVec.toNat).take 32 := by
  rw [keyList_storeKeys ks r (by simp [h]), h]
  rfl

/-- Settles O41, by reading the loaded buffer as the list of the key's first 32 indices. -/
theorem keyBufferLosesNothing : Obligations.KeyBufferLosesNothing := by
  intro r ks hempty hne
  have hle : (storeKeys ks r).KLEN.toNat ≤ 32 := storeKeys_KLEN_le ks r (by simp [hempty])
  have hlist := keyList_storeKeys_of_empty ks hempty
  have hklen : (storeKeys ks r).KLEN.toNat = min ks.length 32 := by
    rw [← keyList_length _ hle, hlist, List.length_take, List.length_map, Nat.min_comm]
  have hpos : 0 < ks.length := List.length_pos_of_ne_nil hne
  have hread (n : Nat) : (ks.map BitVec.toNat).getD n 0 = (ks.getD n 0).toNat :=
    List.getD_map ks 0 BitVec.toNat
  refine ⟨hklen, fun n hn => BitVec.eq_of_toNat_eq ?_, fun k => BitVec.eq_of_toNat_eq ?_⟩
  · calc (keyEntry (storeKeys ks r).KEY n).toNat
        = ((ks.map BitVec.toNat).take 32).getD n.toNat 0 := by
          rw [← keyList_getD _ hle (by omega), hlist]
      _ = (ks.map BitVec.toNat).getD n.toNat 0 := by
          simp only [List.getD_eq_getElem?_getD, List.getElem?_take_of_lt n.isLt]
      _ = (ks.getD n.toNat 0).toNat := hread _
  · calc (keyAt (storeKeys ks r).KEY (storeKeys ks r).KLEN k).toNat
        = (ks.map BitVec.toNat).getD (k.toNat % (ks.map BitVec.toNat).length) 0 := by
          rw [← keyList_getD_mod _ (by omega) hle, hlist, getD_mod_length_take _ k.isLt]
      _ = (ks.getD (k.toNat % ks.length) 0).toNat := by rw [hread, List.length_map]

end Sys2Proof.Machine
end

section
/-! PROOF. The commands `KEY` and `SCHED` (42_key_schedule.md R89-R91): their acceptance and their
completion. -/

namespace Sys2Proof.Machine

theorem exec_key_of_found {s : State} {c : Code} {k : Index} (hidle : s.BUSY = false)
    (hclear : s.ERR = false) (hphase : s.PHASE = .keyload) (hk : lookup c = some k) :
    exec (.key c) s = .next (accept (.key c) (storeKey k s.toRegs) s) := by
  simp [exec, execKey, symbolOperand, hidle, hclear, hphase, hk]

theorem exec_sched_of_key {s : State} (hidle : s.BUSY = false) (hclear : s.ERR = false)
    (hphase : s.PHASE = .keyload) (hkey : s.KLEN ≠ 0#6) :
    exec .sched s = .next (accept .sched (schedule prgaJSeed s.toRegs) s) := by
  simp [exec, execSched, hidle, hclear, hphase, hkey]

/-- From acceptance on an idle machine to completion, an operation writes its effect on the registers
and nothing else (60_exceptions.md R109). -/
theorem engineTurn_accept {s : State} (i : Instr) (after : Regs) (hidle : s.BUSY = false) :
    engineTurn (accept i after s) = { s with toRegs := after, PENDING := none } := by
  rw [engineTurn_pending _ _ rfl rfl, ← hidle]
  rfl

/-- Settles O24, by whether the buffer has room. -/
theorem keyAppendsSymbol : Obligations.KeyAppendsSymbol := by
  intro s c k hidle hclear hphase hk
  refine ⟨_, exec_key_of_found hidle hclear hphase hk, rfl, rfl, hclear, fun hroom => ?_,
    fun hfull => ?_⟩
  · rw [engineTurn_accept _ _ hidle, storeKey_of_room k _ hroom]
    refine ⟨_, rfl, rfl, by bv_omega, fun n => ?_⟩
    simp only [keyEntry_set, eq_comm]
  · rw [engineTurn_accept _ _ hidle, storeKey_of_full k _ hfull]

/-- Settles O25. -/
theorem schedEntersStream : Obligations.SchedEntersStream := by
  intro s hidle hclear hphase hkey
  exact ⟨_, exec_sched_of_key hidle hclear hphase hkey, rfl, rfl, hclear,
    engineTurn_accept _ _ hidle⟩

end Sys2Proof.Machine
end

section
/-! PROOF. The range and the reduction of `Combine` (43_keystream.md R95-R97), from the fifth bit of the
XOR: a keystream value has none, so the XOR has it exactly when the message index has. -/

namespace Sys2Proof.Machine

/-! ### The exclusive-or of a message index and a keystream value -/

theorem xor_lt_64 (m : Index) (r : Entry) : m.toNat ^^^ r.toNat < 64 :=
  Nat.xor_lt_two_pow (n := 6) m.isLt (by omega)

theorem xor_lt_32 {m : Nat} (hm : m < 32) (r : Entry) : m ^^^ r.toNat < 32 :=
  Nat.xor_lt_two_pow (n := 5) hm r.isLt

/-- An index of 32 or more keeps its fifth bit, which no keystream value has. -/
theorem xor_of_high {m : Index} (hm : 32 ≤ m.toNat) (r : Entry) :
    m.toNat ^^^ r.toNat = 32 + ((m.toNat - 32) ^^^ r.toNat) := by
  have hlow := xor_lt_32 (m := m.toNat - 32) (by omega) r
  have hdiv : (m.toNat ^^^ r.toNat) / 2 ^ 5 = 1 := by
    rw [Nat.xor_div_two_pow, Nat.div_eq_of_lt r.isLt, Nat.xor_zero]
    omega
  have hmod : (m.toNat ^^^ r.toNat) % 2 ^ 5 = (m.toNat - 32) ^^^ r.toNat := by
    rw [Nat.xor_mod_two_pow, Nat.mod_eq_of_lt r.isLt]
    congr 1
    omega
  omega

/-- A keystream value of 8 or more has a bit above those of an offset 0..4 (R96). -/
theorem eight_le_xor {m : Nat} (hm : m < 8) {r : Nat} (hr : 8 ≤ r) : 8 ≤ m ^^^ r := by
  have hdiv : (m ^^^ r) / 2 ^ 3 = r / 2 ^ 3 := by
    rw [Nat.xor_div_two_pow, Nat.div_eq_of_lt hm, Nat.zero_xor]
  omega

/-! ### `Combine` as a number -/

/-- One conditional subtraction reduces a 6-bit value modulo 37 (R95). -/
theorem combine_toNat (m : Index) (r : Entry) :
    (combine m r).toNat = (m.toNat ^^^ r.toNat) % 37 := by
  have hx : (m ^^^ r.setWidth 6).toNat = m.toNat ^^^ r.toNat := by
    rw [BitVec.toNat_xor, BitVec.toNat_setWidth_of_le (by decide)]
  have hlt := xor_lt_64 m r
  simp only [combine]
  split_ifs with hfold
  · bv_omega
  · omega

/-- An index below 32 is not reduced (R96). -/
theorem combine_toNat_of_low {m : Index} (hm : m.toNat < 32) (r : Entry) :
    (combine m r).toNat = m.toNat ^^^ r.toNat := by
  have hlt := xor_lt_32 hm r
  rw [combine_toNat, Nat.mod_eq_of_lt (by omega)]

/-- An index of 32 or more is reduced when the XOR of its low bits is 5 or more (R96). -/
theorem combine_toNat_of_folded {m : Index} {r : Entry} (hm : 32 ≤ m.toNat)
    (hfold : 5 ≤ (m.toNat - 32) ^^^ r.toNat) :
    (combine m r).toNat = ((m.toNat - 32) ^^^ r.toNat) - 5 := by
  have hlow := xor_lt_32 (m := m.toNat - 32) (by omega) r
  rw [combine_toNat, xor_of_high hm]
  omega

theorem combine_toNat_of_unfolded {m : Index} {r : Entry} (hm : 32 ≤ m.toNat)
    (hfold : (m.toNat - 32) ^^^ r.toNat < 5) :
    (combine m r).toNat = 32 + ((m.toNat - 32) ^^^ r.toNat) := by
  rw [combine_toNat, xor_of_high hm, Nat.mod_eq_of_lt (by omega)]

theorem combine_zero {m : Index} (hm : m.toNat ≤ 36) : combine m 0 = m := by
  apply BitVec.eq_of_toNat_eq
  rw [combine_toNat, BitVec.ofNat_eq_ofNat, BitVec.toNat_zero, Nat.xor_zero, Nat.mod_eq_of_lt (by omega)]

/-- Settles O44. -/
theorem combineIsXorModulo37 : Obligations.CombineIsXorModulo37 := by
  intro m r _
  exact ⟨combine_toNat m r, combine_le m r⟩

/-- Settles O45, by whether the index has the fifth bit and whether its XOR folds. -/
theorem combineRangeFacts : Obligations.CombineRangeFacts := by
  intro m r hm
  have hlt := xor_lt_64 m r
  refine ⟨by omega, fun hlow => ?_, fun hhigh => ?_, fun hzero => ?_, fun hr => ?_, fun hm32 hr31 => ?_⟩
  · have hx := combine_toNat_of_low hlow r
    exact ⟨hx, hx ▸ xor_lt_32 hlow r⟩
  · have hx := xor_of_high hhigh r
    refine ⟨by omega, ?_⟩
    rcases Nat.lt_or_ge ((m.toNat - 32) ^^^ r.toNat) 5 with hunfolded | hfold
    · rw [combine_toNat_of_unfolded hhigh hunfolded]
      omega
    · rw [combine_toNat_of_folded hhigh hfold]
      omega
  · obtain rfl : r = 0 := BitVec.eq_of_toNat_eq hzero
    exact combine_zero hm
  · rcases Nat.lt_or_ge m.toNat 32 with hlow | hhigh
    · rw [combine_toNat_of_low hlow]
      exact xor_lt_32 hlow r
    · have hfold := eight_le_xor (m := m.toNat - 32) (by omega) hr
      have hbound := xor_lt_32 (m := m.toNat - 32) (by omega) r
      rw [combine_toNat_of_folded hhigh (by omega)]
      omega
  · rw [combine_toNat, hm32, hr31]
    decide

/-! ### Collisions -/

/-- The 37 message indices. -/
def symbolIndices : Finset Index := Finset.univ.filter fun m => m.toNat ≤ 36

@[simp] theorem mem_symbolIndices (m : Index) : m ∈ symbolIndices ↔ m.toNat ≤ 36 := by
  simp [symbolIndices]

/-- Every value below 32 is the output of an index below 32: the XOR undoes itself (R97). -/
theorem exists_low_combine_eq {o : Index} (ho : o.toNat < 32) (r : Entry) :
    ∃ m : Index, m.toNat < 32 ∧ combine m r = o := by
  have hlt := xor_lt_32 ho r
  have hm : (BitVec.ofNat 6 (o.toNat ^^^ r.toNat)).toNat = o.toNat ^^^ r.toNat :=
    Nat.mod_eq_of_lt (by omega)
  refine ⟨BitVec.ofNat 6 (o.toNat ^^^ r.toNat), by omega, BitVec.eq_of_toNat_eq ?_⟩
  rw [combine_toNat_of_low (by omega), hm, Nat.xor_assoc, Nat.xor_self, Nat.xor_zero]

/-- For every keystream value but 0 one of the indices 32, 33 and 36 folds. -/
theorem exists_folded {r : Entry} (hr : r ≠ 0) :
    ∃ m : Index, 32 ≤ m.toNat ∧ m.toNat ≤ 36 ∧ 5 ≤ (m.toNat - 32) ^^^ r.toNat := by
  have hoffset : ∀ r : Entry, r ≠ 0 →
      5 ≤ 0 ^^^ r.toNat ∨ 5 ≤ 1 ^^^ r.toNat ∨ 5 ≤ 4 ^^^ r.toNat := by decide
  rcases hoffset r hr with h0 | h1 | h4
  · exact ⟨32, by decide, by decide, h0⟩
  · exact ⟨33, by decide, by decide, h1⟩
  · exact ⟨36, by decide, by decide, h4⟩

/-- A folded index gives an output below 32, which is also that of an index below 32 (R97). -/
theorem exists_combine_collision {r : Entry} (hr : r ≠ 0) :
    ∃ m m' : Index, m.toNat ≤ 36 ∧ m'.toNat ≤ 36 ∧ m ≠ m' ∧ combine m r = combine m' r := by
  obtain ⟨m, hhigh, hm, hfold⟩ := exists_folded hr
  have hbound := xor_lt_32 (m := m.toNat - 32) (by omega) r
  have hout : (combine m r).toNat < 32 := by
    rw [combine_toNat_of_folded hhigh hfold]
    omega
  obtain ⟨m', hlow, heq⟩ := exists_low_combine_eq hout r
  exact ⟨m, m', hm, by omega, fun h => by subst h; omega, heq.symm⟩

/-- A map of the 37 indices to themselves that is not injective misses one of them. -/
theorem exists_output_missed {r : Entry} (hr : r ≠ 0) :
    ∃ o : Index, o.toNat ≤ 36 ∧ ∀ m : Index, m.toNat ≤ 36 → combine m r ≠ o := by
  by_contra! hall
  have hsurj : Set.SurjOn (combine · r) symbolIndices symbolIndices := by
    intro o ho
    obtain ⟨m, hm, heq⟩ := hall o ((mem_symbolIndices o).1 ho)
    exact ⟨m, (mem_symbolIndices m).2 hm, heq⟩
  have hmaps : Set.MapsTo (combine · r) symbolIndices symbolIndices :=
    fun m _ => (mem_symbolIndices _).2 (combine_le m r)
  obtain ⟨m, m', hm, hm', hne, heq⟩ := exists_combine_collision hr
  exact hne (Finset.injOn_of_surjOn_of_card_le _ hmaps hsurj le_rfl
    ((mem_symbolIndices m).2 hm) ((mem_symbolIndices m').2 hm') heq)

/-- Settles O46: a collision from a folded index, and by counting an output that is missed. -/
theorem combineCollidesUnlessZero : Obligations.CombineCollidesUnlessZero :=
  ⟨fun _ => combine_zero, by decide, by decide,
    fun _ hr => ⟨exists_combine_collision hr, exists_output_missed hr⟩⟩

end Sys2Proof.Machine
end

section
/-! PROOF. The keystream generator and the command `MSG` (43_keystream.md R92, R93, R99). -/

namespace Sys2Proof.Machine

/-! ### One step of the generator -/

theorem prgaI_toNat (i : Entry) : (prgaI i).toNat = (i.toNat + 1) % 32 := by
  simp [prgaI]

theorem prgaJ_toNat (p : Perm) (i j : Entry) :
    (prgaJ p i j).toNat = (j.toNat + (permAt p (prgaI i)).toNat) % 32 := by
  simp [prgaJ]

theorem permAt_prgaS (p : Perm) (i j n : Entry) :
    permAt (prgaS p i j) n = if n = prgaI i then permAt p (prgaJ p i j)
      else if n = prgaJ p i j then permAt p (prgaI i) else permAt p n := by
  split_ifs with hI hJ
  · rw [hI]
    exact permAt_swap_left p _ _
  · rw [hJ]
    exact permAt_swap_right p _ _
  · exact permAt_swap_of_ne p hI hJ

/-- The swap only exchanges the two addends (R93). -/
theorem prgaT_toNat (p : Perm) (i j : Entry) : (prgaT p i j).toNat =
    ((permAt p (prgaI i)).toNat + (permAt p (prgaJ p i j)).toNat) % 32 := by
  simp [prgaT, prgaS, Nat.add_comm]

/-- At either of the swapped indices the keystream value is the other one's entry before the swap. -/
theorem prgaR_ne_of_swapped {p : Perm} {i j : Entry} (hne : permAt p (prgaI i) ≠ permAt p (prgaJ p i j))
    (ht : prgaT p i j = prgaI i ∨ prgaT p i j = prgaJ p i j) :
    prgaR p i j ≠ permAt p (prgaT p i j) := by
  unfold prgaR prgaS
  rcases ht with hI | hJ
  · rw [hI, permAt_swap_left]
    exact hne.symm
  · rw [hJ, permAt_swap_right]
    exact hne

/-- Settles O42, by the reads of the swapped permutation. -/
theorem keystreamIsReadAfterTheSwap : Obligations.KeystreamIsReadAfterTheSwap := by
  intro p i j
  exact ⟨prgaJ_toNat p i j, rfl, prgaT_toNat p i j, prgaR_ne_of_swapped, permAt_swap_of_ne p⟩

/-! ### Runs of the generator -/

theorem prgaRun_I_toNat (n : Nat) (p : Perm) (i j : Entry) :
    (prgaRun n (p, i, j)).2.1.toNat = (i.toNat + n) % 32 := by
  induction n generalizing p i j with
  | zero => exact (Nat.mod_eq_of_lt i.isLt).symm
  | succ n ih =>
    rw [prgaRun, ih, prgaI_toNat, Nat.mod_add_mod, Nat.add_assoc, Nat.add_comm 1 n]

theorem isPermutation_prgaRun (n : Nat) {p : Perm} (hp : isPermutation p) (i j : Entry) :
    isPermutation (prgaRun n (p, i, j)).1 := by
  induction n generalizing p i j with
  | zero => exact hp
  | succ n ih => exact ih (isPermutation_prgaS hp i j) _ _

/-- Settles O43: the index after 32 steps is that of the general count, modulo 32. -/
theorem thirtyTwoStepsReturnTheIndex : Obligations.ThirtyTwoStepsReturnTheIndex := by
  intro p i j
  refine ⟨BitVec.eq_of_toNat_eq ?_, fun hp => isPermutation_prgaRun 32 hp i j⟩
  rw [prgaRun_I_toNat, Nat.add_mod_right, Nat.mod_eq_of_lt i.isLt]

/-! ### The command -/

theorem exec_msg_of_found {s : State} {c : Code} {m : Index} (hidle : s.BUSY = false)
    (hclear : s.ERR = false) (hphase : s.PHASE = .stream) (hm : lookup c = some m) :
    exec (.msg c) s = .next (accept (.msg c) (encryptSymbol m s.toRegs) s) := by
  simp [exec, execMsg, symbolOperand, hidle, hclear, hphase, hm]

/-- Settles O26, from the step of the generator, `Combine` as a number and the fields of `OUT`. -/
theorem msgEncryptsSymbol : Obligations.MsgEncryptsSymbol := by
  intro s c m hidle hclear hphase hm
  refine ⟨_, _, exec_msg_of_found hidle hclear hphase hm, rfl, rfl, hclear,
    engineTurn_accept _ _ hidle, rfl, prgaI_toNat s.I, prgaJ_toNat s.S s.I s.J,
    permAt_prgaS s.S s.I s.J, ?_⟩
  simp only [encryptSymbol_OUT, outKs_outWord, outIdx_outWord, outSym_outWord]
  exact ⟨rfl, combine_toNat m _,
    (alphabetRom_getElem?_index _ _).2 ⟨Nat.lt_succ_of_le (combine_le m _), rfl⟩, outValid_outWord _ _ _,
    outWord_reserved _ _ _, BitVec.toNat_add s.MCOUNT 1⟩

end Sys2Proof.Machine
end

section
/-! PROOF. The source's `transform` applied twice (43_keystream.md R98): the second pass runs the same
keystream, and an XOR without reduction undoes itself. -/

namespace Sys2Proof.Machine.Source

/-! ### A text and its indices -/

/-- The character of an index, as `transform` writes its output. -/
def symbolAt (n : Nat) : Char := alphabet.getD n ' '

theorem indexOf_symbolAt : ∀ n < 37, indexOf (symbolAt n) = some n := by decide

theorem indexOf_eq_some_iff (c : Char) (n : Nat) : indexOf c = some n ↔ n < 37 ∧ symbolAt n = c := by
  constructor
  · intro h
    obtain ⟨hn, heq, _⟩ := List.idxOf?_eq_some_iff.1 h
    exact ⟨hn, by rwa [symbolAt, List.getD_eq_getElem _ _ hn]⟩
  · rintro ⟨hn, rfl⟩
    exact indexOf_symbolAt n hn

theorem indices_cons_eq_some_iff (c : Char) (t : List Char) (ns : List Nat) :
    indices (c :: t) = some ns ↔
      ∃ n ms, indexOf c = some n ∧ indices t = some ms ∧ n :: ms = ns := by
  simp [indices, List.mapM_cons, Option.bind_eq_some_iff]

/-- A list of numbers is the index list of a text exactly when its numbers are indices of the alphabet
and spell the text (R76, R77). -/
theorem indices_eq_some_iff (t : List Char) (ns : List Nat) :
    indices t = some ns ↔ (∀ n ∈ ns, n < 37) ∧ ns.map symbolAt = t := by
  induction t generalizing ns with
  | nil => cases ns <;> simp [indices]
  | cons c t ih =>
    simp only [indices_cons_eq_some_iff, ih, indexOf_eq_some_iff]
    constructor
    · rintro ⟨n, ms, ⟨hn, rfl⟩, ⟨hms, rfl⟩, rfl⟩
      exact ⟨List.forall_mem_cons.2 ⟨hn, hms⟩, rfl⟩
    · rintro ⟨hns, hmap⟩
      obtain ⟨n, ms, rfl, rfl, rfl⟩ := List.map_eq_cons_iff.1 hmap
      obtain ⟨hn, hms⟩ := List.forall_mem_cons.1 hns
      exact ⟨n, ms, ⟨hn, rfl⟩, ⟨hms, rfl⟩, rfl⟩

/-! ### Entries below 32 -/

theorem getD_lt_32 {st : List Nat} (hst : ∀ x ∈ st, x < 32) (n : Nat) : st.getD n 0 < 32 := by
  rcases Nat.lt_or_ge n st.length with hn | hn
  · rw [List.getD_eq_getElem _ _ hn]
    exact hst _ (List.getElem_mem hn)
  · rw [List.getD_eq_default _ _ hn]
    decide

theorem exchange_lt_32 {st : List Nat} (hst : ∀ x ∈ st, x < 32) (a b : Nat) :
    ∀ x ∈ exchange st a b, x < 32 := by
  intro x hx
  rcases List.mem_or_eq_of_mem_set hx with hx | rfl
  · rcases List.mem_or_eq_of_mem_set hx with hx | rfl
    · exact hst x hx
    · exact getD_lt_32 hst b
  · exact getD_lt_32 hst a

/-- Every entry of a scheduled state is below 32: the pass only exchanges entries (42_key_schedule.md
R82). -/
theorem schedule_lt_32 (key : List Nat) : ∀ x ∈ schedule key, x < 32 := by
  unfold schedule
  refine List.foldlRecOn (motive := fun sj : List Nat × Nat => ∀ x ∈ sj.1, x < 32) (List.range 32)
    (scheduleStep key) (fun x hx => List.mem_range.1 hx) fun sj hsj i _ => ?_
  exact exchange_lt_32 hsj i _

/-! ### Two passes -/

/-- Neither pass reduces a low index, and the XOR undoes itself (R98). -/
theorem combined_twice {m r : Nat} (hm : m < 32) (hr : r < 32) : ((m ^^^ r) % 37 ^^^ r) % 37 = m := by
  have hx : m ^^^ r < 32 := Nat.xor_lt_two_pow (n := 5) hm hr
  rw [Nat.mod_eq_of_lt (by omega : m ^^^ r < 37), Nat.xor_assoc, Nat.xor_self, Nat.xor_zero,
    Nat.mod_eq_of_lt (by omega)]

theorem outputs_lt_37 (st : List Nat) (i j : Nat) (ms : List Nat) :
    ∀ o ∈ outputs st i j ms, o < 37 := by
  induction ms generalizing st i j with
  | nil => simp [outputs]
  | cons m ms ih => exact List.forall_mem_cons.2 ⟨Nat.mod_lt _ (by decide), ih _ _ _⟩

/-- A second pass from the same state returns the message: the state's steps do not depend on the
message, so the keystream is the same. -/
theorem outputs_outputs {st : List Nat} (hst : ∀ x ∈ st, x < 32) (i j : Nat) {ms : List Nat}
    (hms : ∀ m ∈ ms, m < 32) : outputs st i j (outputs st i j ms) = ms := by
  induction ms generalizing st i j with
  | nil => rfl
  | cons m ms ih =>
    obtain ⟨hm, hms⟩ := List.forall_mem_cons.1 hms
    have hst' := exchange_lt_32 hst ((i + 1) % 32) ((j + st.getD ((i + 1) % 32) 0) % 32)
    simp only [outputs, combined_twice hm (getD_lt_32 hst' _), ih hst' _ _ hms]

/-- What `transform` answers, by the indices of its two texts (44_session_control.md R104). -/
theorem transform_eq_some_iff (m k out : List Char) : transform m k = some out ↔
    ∃ ks ms, indices k = some ks ∧ indices m = some ms ∧ ks ≠ [] ∧
      (outputs (schedule ks) 0 0 ms).map symbolAt = out := by
  have hsymbol : symbolAt = fun n => alphabet.getD n ' ' := rfl
  cases hk : indices k <;> cases hm : indices m <;> simp [transform, hk, hm, hsymbol]

/-- Low messages come back (R98). -/
theorem transform_transform {m k out : List Char} (h : transform m k = some out)
    (hlow : ∀ c ∈ m, ∃ n, indexOf c = some n ∧ n < 32) : transform out k = some m := by
  obtain ⟨ks, ms, hks, hms, hne, rfl⟩ := (transform_eq_some_iff m k out).1 h
  obtain ⟨hms37, rfl⟩ := (indices_eq_some_iff m ms).1 hms
  have hms32 : ∀ n ∈ ms, n < 32 := by
    intro n hn
    obtain ⟨n', hidx, hlt⟩ := hlow _ (List.mem_map_of_mem hn)
    rw [indexOf_symbolAt n (hms37 n hn)] at hidx
    cases hidx
    exact hlt
  have hout := (indices_eq_some_iff _ _).2 ⟨outputs_lt_37 (schedule ks) 0 0 ms, rfl⟩
  refine (transform_eq_some_iff _ _ _).2 ⟨ks, _, hks, hout, hne, ?_⟩
  rw [outputs_outputs (schedule_lt_32 ks) 0 0 hms32]

end Sys2Proof.Machine.Source

namespace Sys2Proof.Machine

/-- Settles O47: the low messages by the two passes, the rule's counterexample by running it. -/
theorem transformTwiceReturnsLowMessages : Obligations.TransformTwiceReturnsLowMessages :=
  ⟨fun _ _ _ => Source.transform_transform, by decide, by decide⟩

end Sys2Proof.Machine
end

section
/-! PROOF. The outputs of sessions (00_scope.md R12, 43_keystream.md R99): while a completed `MSG` is
unread, `OUT` holds its symbol, and a read of `OUT` answers a code of the alphabet. -/

namespace Sys2Proof.Machine

/-- The code of a symbol of the alphabet (R76). -/
def IsSymbolCode (c : Code) : Prop := ∃ k : Index, k.toNat ≤ 36 ∧ lookup c = some k

/-- `OUT` holds a result, and no pending `CLR` is about to clear it (R102). -/
def HoldsOutput (s : State) : Prop := s.OUT ≠ 0#32 ∧ ∀ p, s.PENDING = some p → p.op ≠ .clr

/-- What holds of an observation in the state it was made in: its outputs are symbol codes, and the
result it has not read stands in `OUT`. -/
structure Observation.Sound (o : Observation) (s : State) : Prop where
  outputs : ∀ c ∈ o.outputs, IsSymbolCode c
  unread : o.unread = true → HoldsOutput s

theorem Observation.sound_start (s : State) : Observation.start.Sound s where
  outputs := by simp [Observation.start]
  unread h := absurd h (by decide)

/-- Every step answers a next state (60_exceptions.md R113). -/
theorem exists_step_eq_next (s : State) : ∃ t, step s = .next t := by
  rcases step_cases s with ⟨_, _, e⟩ | ⟨_, _, e⟩ | ⟨w, rest, _, e⟩ | ⟨_, _, t, _, _, e, _⟩
  · exact ⟨_, e⟩
  · exact ⟨_, e⟩
  · rcases submitCommand_cases w (takeInput rest s) with ⟨_, _, hraise⟩ | ⟨i, _, hexec⟩
    · exact ⟨_, by rw [e, hraise, answerOk_next]⟩
    · obtain ⟨u, hu, _⟩ := exec_cases i (takeInput rest s)
      exact ⟨_, by rw [e, hexec, hu, answerOk_next]⟩
  · exact ⟨t, e⟩

/-! ### `OUT` from one step to the next -/

/-- No operation but that of `CLR` takes a result out of `OUT`. -/
theorem operation_OUT_ne_zero {i : Instr} {r : Regs} (hi : i ≠ .clr) (hout : r.OUT ≠ 0#32) :
    (operation i r).OUT ≠ 0#32 := by
  cases i with
  | clr => exact absurd rfl hi
  | nop | sched | map _ | unmap _ => exact hout
  | key c =>
    simp only [operation]
    split
    · rwa [storeKey_OUT]
    · exact hout
  | msg c =>
    simp only [operation]
    split
    · exact outWord_ne_zero _ _ _
    · exact hout

/-- An operation that is pending after the submission of a command was pending before, or is that
command's, accepted on an idle machine (R108 step 7). -/
theorem submitCommand_PENDING_cases {s t : State} {w : Word} (ht : submitCommand w s = .next t)
    {p : Pending} (hp : t.PENDING = some p) :
    s.PENDING = some p ∨ (decode w = .command p.op ∧ s.BUSY = false) := by
  rcases submitCommand_cases w s with ⟨_, _, hraise⟩ | ⟨i, hi, hexec⟩
  · obtain rfl : raise _ s = t := by simpa [hraise] using ht
    exact .inl (by simpa using hp)
  · obtain ⟨u, hu, hcases⟩ := exec_cases i s
    obtain rfl : u = t := by simpa [hexec, hu] using ht
    rcases hcases with ⟨rfl, _⟩ | ⟨e, _, rfl⟩ | ⟨hidle, _, _, rfl⟩
    · exact .inl hp
    · exact .inl (by simpa using hp)
    · obtain rfl : _ = p := Option.some.inj hp
      exact .inr ⟨hi, hidle⟩

/-- An operation that is pending after a step was pending before, or is that of the command the step
submitted to an idle machine. -/
theorem step_PENDING_cases {s t : State} (hstep : step s = .next t) {p : Pending}
    (hp : t.PENDING = some p) :
    s.PENDING = some p ∨
    ∃ w rest, s.inputs = cmdWrite w :: rest ∧ decode w = .command p.op ∧ s.BUSY = false := by
  rcases step_cases s with ⟨rest, _, e⟩ | ⟨rest, _, e⟩ | ⟨w, rest, hi, e⟩ | ⟨_, rest, u, _, _, e, hu, _⟩
  · obtain rfl : engineTurn _ = t := by simpa [e] using hstep
    unfold engineTurn at hp
    split at hp
    · simp at hp
    · exact .inl hp
  · obtain rfl : resetEdge _ = t := by simpa [e] using hstep
    simp at hp
  · obtain ⟨u, hu, rfl⟩ := (answerOk_eq_next _ _).1 (e.symm.trans hstep)
    rcases submitCommand_PENDING_cases hu hp with hsame | ⟨hdecode, hidle⟩
    · exact .inl hsame
    · exact .inr ⟨w, rest, hi, hdecode, hidle⟩
  · obtain rfl : u = t := by simpa [e] using hstep
    obtain ⟨_, _, _, _, hpending⟩ := hu
    exact .inl (hpending ▸ hp)

/-- A result stays in `OUT` until a step starts a session. -/
theorem HoldsOutput.of_step {s t : State} (h : HoldsOutput s) (hinv : s.Inv) (hstep : step s = .next t)
    (hcont : startsSession s = false) : HoldsOutput t := by
  obtain ⟨hout, hclr⟩ := h
  have hnostart := mt (startsSession_iff s).2 (by simp [hcont])
  refine ⟨?_, fun p hp hop => ?_⟩
  · have hreset : ∀ rest, s.inputs ≠ .reset :: rest := fun rest hi => hnostart (.inl ⟨rest, hi⟩)
    rcases hinv.step_toRegs_cases hstep hreset with hsame | ⟨p, hp, _, _, hregs, _, hafter⟩
    · rwa [hsame]
    · rw [hregs, hafter]
      exact operation_OUT_ne_zero (hclr p hp) hout
  · rcases step_PENDING_cases hstep hp with hsame | ⟨w, rest, hi, hdecode, hidle⟩
    · exact hclr p hsame hop
    · exact hnostart (.inr ⟨w, rest, hi, hop ▸ hdecode, hidle⟩)

/-- The completion of a `MSG` leaves its result in `OUT` (R99). -/
theorem holdsOutput_of_completesMsg {s t : State} (hinv : s.Inv) (hstep : step s = .next t)
    (hmsg : completesMsg s = true) : HoldsOutput t := by
  simp only [completesMsg, Bool.and_eq_true, Option.any_eq_true] at hmsg
  obtain ⟨⟨hengine, hbusy⟩, p, hp, hop⟩ := hmsg
  obtain ⟨rest, hturn⟩ : ∃ rest, step s = .next (engineTurn (takeInput rest s)) := by
    unfold engineNext at hengine
    split at hengine
    · exact ⟨_, step_empty s ‹_›⟩
    · exact ⟨_, step_engine s _ ‹_›⟩
    · cases hengine
    · cases hengine
  rw [engineTurn_pending (takeInput rest s) p hbusy hp] at hturn
  obtain rfl := Host.Outcome.next.inj (hturn.symm.trans hstep)
  refine ⟨?_, by simp⟩
  obtain ⟨hadmits, hafter⟩ := hinv.pending p hp
  obtain ⟨op, after⟩ := p
  obtain rfl : after = operation op s.toRegs := hafter
  cases op with
  | msg c =>
    obtain ⟨m, hm⟩ := Option.isSome_iff_exists.1 hadmits.2
    simp only [operation, hm]
    exact outWord_ne_zero _ _ _
  | nop | clr | key _ | sched | map _ | unmap _ => cases hop

/-! ### A read of `OUT` -/

/-- The reserved bits that a read masks lie above the symbol (R36). -/
@[simp] theorem outSym_masked (w : Word) : outSym (w &&& outFields) = outSym w := by
  have hmask : outFields.extractLsb' 0 8 = BitVec.allOnes 8 := by decide
  rw [outSym, BitVec.extractLsb'_and, hmask, BitVec.and_allOnes, outSym]

theorem isSymbolCode_outSym {s : State} (hinv : s.Inv) (hout : s.OUT ≠ 0#32) :
    IsSymbolCode (outSym s.OUT) := by
  rcases hinv.regs.out with hzero | ⟨ks, o, ho, hword⟩
  · exact absurd hzero hout
  · rw [hword, outSym_outWord]
    exact ⟨o, ho, lookup_unmap (Nat.lt_succ_of_le ho)⟩

theorem delivered_eq_some {t : State} {r : Response} (h : delivered t = some r) :
    t.response = some r := by
  unfold delivered at h
  split at h
  · cases h
  · exact h

/-- The word an idle read of `OUT` delivers carries the symbol `OUT` holds (R47, R36). -/
theorem outSym_delivered {s t : State} (hstep : step s = .next t) (hread : readsOut s = true)
    (hidle : s.BUSY = false) {r : Response} (hr : delivered t = some r) :
    outSym r.rdata = outSym s.OUT := by
  obtain ⟨rest, hi⟩ : ∃ rest, s.inputs = rd .out :: rest := by
    simpa [readsOut, List.head?_eq_some_iff] using hread
  obtain rfl := Host.Outcome.next.inj ((step_read_register s rest .out hi).symm.trans hstep)
  obtain rfl := Option.some.inj (delivered_eq_some hr)
  rw [readWord_idle _ _ hidle, regValue, outSym_masked]

/-! ### Observations along a run -/

/-- A step that starts no session keeps the observation sound: it completes a `MSG`, takes the symbol
that stands in `OUT`, or adds nothing. -/
theorem Observation.Sound.after {o : Observation} {s t : State} (h : o.Sound s) (hinv : s.Inv)
    (hstep : step s = .next t) (hcont : startsSession s = false) : (o.after s t).Sound t := by
  have hunread (hu : o.unread = true) : HoldsOutput t := (h.unread hu).of_step hinv hstep hcont
  unfold Observation.after
  split_ifs with hmsg hread
  · exact ⟨h.outputs, fun _ => holdsOutput_of_completesMsg hinv hstep hmsg⟩
  · simp only [Bool.and_eq_true, Bool.not_eq_true'] at hread
    obtain ⟨⟨hu, hout⟩, hidle⟩ := hread
    split
    · next r hr =>
      refine ⟨fun c hc => ?_, fun hf => absurd hf (by simp)⟩
      rcases List.mem_append.1 hc with hold | hnew
      · exact h.outputs c hold
      · obtain rfl := List.mem_singleton.1 hnew
        rw [outSym_delivered hstep hout hidle hr]
        exact isSymbolCode_outSym hinv (h.unread hu).1
    · exact ⟨h.outputs, hunread⟩
  · exact ⟨h.outputs, hunread⟩

/-- From a sound observation every session's outputs are symbol codes, by the steps of the run. -/
theorem isSymbolCode_of_sessionsFrom (n : Nat) {o : Observation} {s : State} (hinv : s.Inv)
    (h : o.Sound s) : ∀ r ∈ sessionsFrom n o s, ∀ c ∈ r.outputs, IsSymbolCode c := by
  induction n generalizing o s with
  | zero =>
    rintro r hr
    obtain rfl := List.mem_singleton.1 hr
    exact h.outputs
  | succ n ih =>
    obtain ⟨t, hstep⟩ := exists_step_eq_next s
    have htinv : t.Inv := stepKeepsInvariant s t hinv hstep
    cases hs : startsSession s with
    | true =>
      rw [sessionsFrom_start n o s t hstep hs]
      exact List.forall_mem_cons.2 ⟨h.outputs, ih htinv (Observation.sound_start t)⟩
    | false =>
      rw [sessionsFrom_continue n o s t hstep hs]
      exact ih htinv (h.after hinv hstep hs)

/-- Settles O53: the observation at the start is sound. -/
theorem sessionOutputsAreOfTheAlphabet : Obligations.SessionOutputsAreOfTheAlphabet :=
  fun n s hinv => isSymbolCode_of_sessionsFrom n hinv (Observation.sound_start s)

end Sys2Proof.Machine
end

section
/-! PROOF. Session control: `NOP` and `CLR` (44_session_control.md R101, R102). -/

namespace Sys2Proof.Machine

theorem exec_nop_idle {s : State} (hidle : s.BUSY = false) : exec .nop s = .next s :=
  whenIdle_idle s _ hidle

theorem exec_clr_idle {s : State} (hidle : s.BUSY = false) :
    exec .clr s = .next (accept .clr (clearSession s.toRegs) (clearLatch s)) :=
  whenIdle_idle s _ hidle

/-- Settles O22. -/
theorem nopChangesNothing : Obligations.NopChangesNothing :=
  fun _ => exec_nop_idle

/-- Settles O23. -/
theorem clrStartsFreshSession : Obligations.ClrStartsFreshSession := by
  intro s hidle
  refine ⟨_, exec_clr_idle hidle, rfl, rfl, rfl, rfl, ?_⟩
  rw [engineTurn_pending _ _ rfl rfl]
  rfl

end Sys2Proof.Machine
end

section
/-! PROOF. Nothing of an earlier session is left in a later one (44_session_control.md R103): after a
`CLR` or a reset two machines differ in `RESULT` at most, no step tells such machines apart, and no read
of `OUT` shows `RESULT`. -/

namespace Sys2Proof.Machine

/-! ### Effects that ignore `RESULT` -/

/-- What an operation writes outside `RESULT` does not depend on `RESULT`. -/
def IgnoresResult (effect : Regs → Regs) : Prop :=
  ∀ r, (effect r).blankResult = (effect r.blankResult).blankResult

theorem IgnoresResult.blankResult_congr {effect : Regs → Regs} (h : IgnoresResult effect) {r r' : Regs}
    (hr : r.blankResult = r'.blankResult) : (effect r).blankResult = (effect r').blankResult := by
  rw [h r, hr, ← h r']

theorem ignoresResult_clearSession : IgnoresResult clearSession := fun _ => rfl

theorem ignoresResult_schedule (seed : Config.PrgaJSeed) : IgnoresResult (schedule seed) := fun _ => rfl

theorem ignoresResult_encryptSymbol (m : Index) : IgnoresResult (encryptSymbol m) := fun _ => rfl

theorem ignoresResult_storeResult (w : Word) : IgnoresResult (storeResult w) := fun _ => rfl

theorem ignoresResult_storeKey (k : Index) : IgnoresResult (storeKey k) := by
  intro r
  by_cases hroom : r.KLEN.toNat < 32
  · rw [storeKey_of_room k r hroom, storeKey_of_room k r.blankResult hroom]
    rfl
  · have hfull : 32 ≤ r.KLEN.toNat := Nat.le_of_not_lt hroom
    rw [storeKey_of_full k r hfull, storeKey_of_full k r.blankResult hfull]
    rfl

/-! ### Machines that differ in `RESULT` at most -/

/-- Two machines with the same events to come and the same draws that agree on the latch, on `BUSY`, and
on all but `RESULT` of their registers: while idle those they hold, while busy those the operation in
progress will write. -/
structure Alike (s s' : State) : Prop where
  inputs : s.inputs = s'.inputs
  draws : s.draws = s'.draws
  busy : s.BUSY = s'.BUSY
  err : s.ERR = s'.ERR
  code : s.ERRCODE = s'.ERRCODE
  regs : s.BUSY = false → s.blankResult = s'.blankResult
  pending : s.BUSY = true → ∃ op after after', s.PENDING = some ⟨op, after⟩ ∧
    s'.PENDING = some ⟨op, after'⟩ ∧ after.blankResult = after'.blankResult

/-- Two outcomes that go on to machines of that kind. -/
def AlikeNext (o o' : StepResult) : Prop := ∃ t t', o = .next t ∧ o' = .next t' ∧ Alike t t'

section
variable {s s' : State}

theorem Alike.phase (h : Alike s s') (hidle : s.BUSY = false) : s.PHASE = s'.PHASE :=
  (congrArg Regs.PHASE (h.regs hidle) :)

theorem Alike.klen (h : Alike s s') (hidle : s.BUSY = false) : s.KLEN = s'.KLEN :=
  (congrArg Regs.KLEN (h.regs hidle) :)

theorem Alike.next (h : Alike s s') : AlikeNext (.next s) (.next s') := ⟨s, s', rfl, rfl, h⟩

/-! ### The shared operations on such machines -/

theorem Alike.takeInput (h : Alike s s') (rest : List Input) :
    Alike (takeInput rest s) (takeInput rest s') :=
  ⟨rfl, h.draws, h.busy, h.err, h.code, h.regs, h.pending⟩

theorem Alike.respond (h : Alike s s') (r r' : Response) : Alike (respond r s) (respond r' s') :=
  ⟨h.inputs, h.draws, h.busy, h.err, h.code, h.regs, h.pending⟩

theorem Alike.clearLatch (h : Alike s s') : Alike (clearLatch s) (clearLatch s') :=
  ⟨h.inputs, h.draws, h.busy, rfl, rfl, h.regs, h.pending⟩

theorem Alike.raise (h : Alike s s') (e : ErrCode) : Alike (raise e s) (raise e s') := by
  rw [raise_eq, raise_eq]
  exact ⟨h.inputs, h.draws, h.busy, rfl, by simp only [h.err, h.code], h.regs, h.pending⟩

theorem Alike.accept (h : Alike s s') (hidle : s.BUSY = false) (i : Instr) {effect : Regs → Regs}
    (heffect : IgnoresResult effect) :
    Alike (accept i (effect s.toRegs) s) (accept i (effect s'.toRegs) s') where
  inputs := h.inputs
  draws := h.draws
  busy := rfl
  err := h.err
  code := h.code
  regs hb := absurd hb (by simp)
  pending _ := ⟨i, _, _, rfl, rfl, heffect.blankResult_congr (h.regs hidle)⟩

theorem Alike.engineTurn (h : Alike s s') : Alike (engineTurn s) (engineTurn s') := by
  cases hb : s.BUSY with
  | false => rwa [engineTurn_idle s hb, engineTurn_idle s' (h.busy ▸ hb)]
  | true =>
    obtain ⟨op, after, after', hp, hp', hafter⟩ := h.pending hb
    rw [engineTurn_pending s _ hb hp, engineTurn_pending s' _ (h.busy ▸ hb) hp']
    exact ⟨h.inputs, h.draws, rfl, h.err, h.code, fun _ => hafter, fun hf => absurd hf (by simp)⟩

/-- A reset edge leaves nothing to tell two machines apart by but their events and draws (R124). -/
theorem alike_resetEdge (hdraws : s.draws = s'.draws) (rest : List Input) :
    Alike (resetEdge (Machine.takeInput rest s)) (resetEdge (Machine.takeInput rest s')) :=
  ⟨rfl, hdraws, rfl, rfl, rfl, fun _ => rfl, fun hb => absurd hb (by simp)⟩

/-! ### The checks of R108 on such machines -/

variable {o o' : StepResult}

theorem Alike.whenIdle (h : Alike s s') (ho : s.BUSY = false → AlikeNext o o') :
    AlikeNext (whenIdle s o) (whenIdle s' o') := by
  cases hb : s.BUSY with
  | false => rw [whenIdle_idle s o hb, whenIdle_idle s' o' (h.busy ▸ hb)]; exact ho hb
  | true => rw [whenIdle_busy s o hb, whenIdle_busy s' o' (h.busy ▸ hb)]; exact (h.raise _).next

theorem Alike.whenClear (h : Alike s s') (ho : AlikeNext o o') :
    AlikeNext (whenClear s o) (whenClear s' o') := by
  cases he : s.ERR with
  | false => rwa [whenClear_clear s o he, whenClear_clear s' o' (h.err ▸ he)]
  | true => rw [whenClear_latched s o he, whenClear_latched s' o' (h.err ▸ he)]; exact h.next

theorem Alike.whenPhase (h : Alike s s') (hidle : s.BUSY = false) (p : Phase) (ho : AlikeNext o o') :
    AlikeNext (whenPhase p s o) (whenPhase p s' o') := by
  have hphase := h.phase hidle
  by_cases hp : s.PHASE = p
  · rwa [whenPhase_same p s o hp, whenPhase_same p s' o' (hphase ▸ hp)]
  · rw [whenPhase_other p s o hp, whenPhase_other p s' o' (hphase ▸ hp)]
    exact (h.raise _).next

/-! ### A step of such machines -/

/-- No command tells the two machines apart. -/
theorem Alike.exec (h : Alike s s') (i : Instr) : AlikeNext (exec i s) (exec i s') := by
  cases i with
  | nop => exact h.whenIdle fun _ => h.next
  | clr => exact h.whenIdle fun hidle => (h.clearLatch.accept hidle .clr ignoresResult_clearSession).next
  | key c =>
    refine h.whenIdle fun hidle => h.whenClear (h.whenPhase hidle .keyload ?_)
    cases symbolOperand c with
    | none => exact (h.raise _).next
    | some k => exact (h.accept hidle (.key c) (ignoresResult_storeKey k)).next
  | sched =>
    refine h.whenIdle fun hidle => h.whenClear (h.whenPhase hidle .keyload ?_)
    rw [h.klen hidle]
    split_ifs
    · exact (h.raise _).next
    · exact (h.accept hidle .sched (ignoresResult_schedule prgaJSeed)).next
  | msg c =>
    refine h.whenIdle fun hidle => h.whenClear (h.whenPhase hidle .stream ?_)
    cases symbolOperand c with
    | none => exact (h.raise _).next
    | some m => exact (h.accept hidle (.msg c) (ignoresResult_encryptSymbol m)).next
  | map c =>
    exact h.whenIdle fun hidle => (h.accept hidle (.map c) (ignoresResult_storeResult (mapWord c))).next
  | unmap n =>
    exact h.whenIdle fun hidle =>
      (h.accept hidle (.unmap n) (ignoresResult_storeResult (unmapWord n))).next

theorem Alike.submitCommand (h : Alike s s') (w : Word) :
    AlikeNext (submitCommand w s) (submitCommand w s') := by
  unfold Machine.submitCommand
  cases decode w with
  | command i => exact h.exec i
  | illegal _ => exact h.whenIdle fun _ => (h.raise _).next

theorem AlikeNext.answerOk (h : AlikeNext o o') : AlikeNext (answerOk o) (answerOk o') := by
  obtain ⟨t, t', rfl, rfl, ht⟩ := h
  exact (ht.respond okWrite okWrite).next

theorem Alike.memWrite (h : Alike s s') (off : Offset) (size : AccessSize) (v : Word) :
    AlikeNext (memWrite off size v s) (memWrite off size v s') := by
  unfold Machine.memWrite
  split
  · exact (h.respond _ _).next
  · exact (h.submitCommand v).answerOk
  · exact (h.respond _ _).next

theorem Alike.drawsOf (h : Alike s s') (r : Reg) : drawsOf r s = drawsOf r s' := by
  simp only [Machine.drawsOf, h.busy]

theorem Alike.memRead (h : Alike s s') (off : Offset) (size : AccessSize) :
    Alike (memRead off size s) (memRead off size s') := by
  unfold Machine.memRead
  split
  · exact h.respond _ _
  · next r _ =>
    exact ⟨h.inputs, congrArg₂ (· + ·) h.draws (h.drawsOf r), h.busy, h.err, h.code, h.regs, h.pending⟩

theorem Alike.step (h : Alike s s') : AlikeNext (step s) (step s') := by
  have hi' := h.inputs
  match hi : s.inputs with
  | [] =>
    rw [step_empty s hi, step_empty s' (hi' ▸ hi)]
    exact (h.takeInput []).engineTurn.next
  | .engine :: rest =>
    rw [step_engine s rest hi, step_engine s' rest (hi' ▸ hi)]
    exact (h.takeInput rest).engineTurn.next
  | .reset :: rest =>
    rw [step_reset s rest hi, step_reset s' rest (hi' ▸ hi)]
    exact (alike_resetEdge h.draws rest).next
  | .request (.read off size) :: rest =>
    rw [step_read s rest off size hi, step_read s' rest off size (hi' ▸ hi)]
    exact ((h.takeInput rest).memRead off size).next
  | .request (.write off size v) :: rest =>
    rw [step_write s rest off size v hi, step_write s' rest off size v (hi' ▸ hi)]
    exact (h.takeInput rest).memWrite off size v

/-! ### What a host sees of such machines -/

theorem Alike.startsSession (h : Alike s s') : startsSession s = startsSession s' := by
  simp only [Machine.startsSession, h.inputs, h.busy]

theorem Alike.readsOut (h : Alike s s') : readsOut s = readsOut s' := by
  simp only [Machine.readsOut, h.inputs]

theorem Alike.completesMsg (h : Alike s s') : completesMsg s = completesMsg s' := by
  cases hb : s.BUSY with
  | false => rw [completesMsg_idle s hb, completesMsg_idle s' (h.busy ▸ hb)]
  | true =>
    obtain ⟨op, after, after', hp, hp', _⟩ := h.pending hb
    simp only [Machine.completesMsg, engineNext, h.inputs, h.busy, hp, hp', Option.any_some]

/-- `OUT` is read from registers that agree, or, while an operation runs, from the same draw (R43). -/
theorem Alike.readWord_out (h : Alike s s') : readWord .out s = readWord .out s' := by
  cases hb : s.BUSY with
  | false =>
    have hout : s.OUT = s'.OUT := (congrArg Regs.OUT (h.regs hb) :)
    rw [readWord_idle _ s hb, readWord_idle _ s' (h.busy ▸ hb), regValue, regValue, hout]
  | true =>
    have hhidden (w : Word) : w &&& outFields &&& ~~~outFields = 0#32 := by
      rw [BitVec.and_assoc, BitVec.and_not_self]
      exact BitVec.and_zero
    simp only [readWord_busy _ s hb, readWord_busy _ s' (h.busy ▸ hb), regValue, unspecifiedBits, hhidden,
      h.draws]

theorem Alike.delivered {t t' : State} (h : Alike s s') (hread : Machine.readsOut s = true)
    (ht : Machine.step s = .next t) (ht' : Machine.step s' = .next t') : delivered t = delivered t' := by
  obtain ⟨rest, hi⟩ : ∃ rest, s.inputs = rd .out :: rest := by
    simpa [Machine.readsOut, List.head?_eq_some_iff] using hread
  obtain rfl := Host.Outcome.next.inj ((step_read_register s rest .out hi).symm.trans ht)
  obtain rfl := Host.Outcome.next.inj ((step_read_register s' rest .out (h.inputs ▸ hi)).symm.trans ht')
  simp only [Machine.delivered, h.readWord_out]

theorem Alike.observation_after {t t' : State} (h : Alike s s') (ht : Machine.step s = .next t)
    (ht' : Machine.step s' = .next t') (ob : Observation) : ob.after s t = ob.after s' t' := by
  unfold Observation.after
  rw [← h.completesMsg, ← h.readsOut, ← h.busy]
  cases hread : Machine.readsOut s with
  | false => simp
  | true => rw [h.delivered hread ht ht']

end

/-! ### Runs of such machines -/

theorem Alike.outReads (n : Nat) {s s' : State} (h : Alike s s') : outReads n s = outReads n s' := by
  induction n generalizing s s' with
  | zero => rfl
  | succ n ih =>
    obtain ⟨t, t', ht, ht', hnext⟩ := h.step
    simp only [Machine.outReads, ht, ht', ← h.readsOut, ih hnext]
    cases hread : Machine.readsOut s with
    | false => simp
    | true => rw [h.delivered hread ht ht']

theorem Alike.sessionsFrom (n : Nat) {s s' : State} (h : Alike s s') (ob : Observation) :
    sessionsFrom n ob s = sessionsFrom n ob s' := by
  induction n generalizing s s' ob with
  | zero => simp only [Machine.sessionsFrom, Observation.close, h.err]
  | succ n ih =>
    obtain ⟨t, t', ht, ht', hnext⟩ := h.step
    simp only [Machine.sessionsFrom, ht, ht', ← h.startsSession, h.observation_after ht ht', ih hnext,
      Observation.close, h.err]

theorem Alike.run (n : Nat) {s s' : State} (h : Alike s s') :
    AlikeNext (Sys2Proof.core.run n s) (Sys2Proof.core.run n s') := by
  induction n generalizing s s' with
  | zero => exact h.next
  | succ n ih =>
    obtain ⟨t, t', ht, ht', hnext⟩ := h.step
    rw [run_succ n s t ht, run_succ n s' t' ht']
    exact ih hnext

/-! ### The start of a session -/

/-- An accepted `CLR` will write the same registers, but for `RESULT`, on every machine (R102). -/
theorem alike_accept_clr {s s' : State} (hdraws : s.draws = s'.draws) (rest : List Input) :
    Alike (accept .clr (clearSession s.toRegs) (clearLatch (takeInput rest s)))
      (accept .clr (clearSession s'.toRegs) (clearLatch (takeInput rest s'))) :=
  ⟨rfl, hdraws, rfl, rfl, rfl, fun hb => absurd hb (by simp), fun _ => ⟨.clr, _, _, rfl, rfl, rfl⟩⟩

theorem step_clr_idle {s : State} {w : Word} {rest : List Input} (hi : s.inputs = cmdWrite w :: rest)
    (hd : decode w = .command .clr) (hidle : s.BUSY = false) :
    step s = .next (respond okWrite
      (accept .clr (clearSession s.toRegs) (clearLatch (takeInput rest s)))) := by
  have hidle' : (takeInput rest s).BUSY = false := hidle
  rw [step_cmdWrite_of_decode hi hd, exec_clr_idle hidle', answerOk_next]
  rfl

/-- The step that starts a session makes any two machines alike. -/
theorem alikeNext_of_startsSession {s s' : State} (hs : startsSession s = true)
    (hs' : startsSession s' = true) (hinputs : s'.inputs = s.inputs) (hdraws : s.draws = s'.draws) :
    AlikeNext (step s) (step s') := by
  rcases (startsSession_iff s).1 hs with ⟨rest, hi⟩ | ⟨w, rest, hi, hd, hidle⟩
  · rw [step_reset s rest hi, step_reset s' rest (hinputs.trans hi)]
    exact (alike_resetEdge hdraws rest).next
  · have hidle' : s'.BUSY = false := by
      simpa [startsSession, hinputs, hi, cmdWrite, hd] using hs'
    rw [step_clr_idle hi hd hidle, step_clr_idle (hinputs.trans hi) hd hidle']
    exact ((alike_accept_clr hdraws rest).respond okWrite okWrite).next

theorem readsOut_of_startsSession {s : State} (hs : startsSession s = true) : readsOut s = false := by
  rcases (startsSession_iff s).1 hs with ⟨rest, hi⟩ | ⟨w, rest, hi, _⟩ <;>
    simp [readsOut, hi, rd, cmdWrite]

/-- Settles O52: the first step makes the machines alike, and every later one keeps them alike. -/
theorem clrMakesSessionsIndependent : Obligations.ClrMakesSessionsIndependent := by
  intro n s s' hs hs' hinputs hdraws
  obtain ⟨t, t', ht, ht', h⟩ := alikeNext_of_startsSession hs hs' hinputs hdraws
  refine ⟨?_, ⟨sessionsFrom n .start t, sessionsFrom_start n .start s t ht hs, ?_⟩, ?_⟩
  · simp only [outReads, ht, ht', readsOut_of_startsSession hs, readsOut_of_startsSession hs',
      h.outReads n, Bool.false_eq_true, if_false]
  · rw [h.sessionsFrom n .start]
    exact sessionsFrom_start n .start s' t' ht' hs'
  · rw [run_succ n s t ht, run_succ n s' t' ht']
    obtain ⟨u, u', hu, hu', hend⟩ := h.run n
    exact ⟨u, u', hu, hu', hend.err, hend.code, hend.busy, hend.regs⟩

end Sys2Proof.Machine
end

section
/-! PROOF. Runs of a host's transactions (30_encoding.md R72) with the sessions they end and what they let
the host observe (00_scope.md R12): reads of `STATUS`, the engine's turn, `POLL`, and a command with its
`POLL`. -/

namespace Sys2Proof.Machine

/-! ### Runs and observations -/

/-- `n` steps lead from `s`, where `o` is observed of the session in progress, to `t` with `o'` observed,
and the sessions `ended` end on the way. -/
structure Reaches (n : Nat) (o : Observation) (s : State) (ended : List SessionResult)
    (o' : Observation) (t : State) : Prop where
  run : Sys2Proof.core.run n s = .next t
  sessions : ∀ k, sessionsFrom (n + k) o s = ended ++ sessionsFrom k o' t

theorem Reaches.refl (o : Observation) (s : State) : Reaches 0 o s [] o s where
  run := rfl
  sessions k := by rw [Nat.zero_add, List.nil_append]

theorem Reaches.trans {m n : Nat} {o o' o'' : Observation} {s t u : State}
    {ended ended' : List SessionResult} (h : Reaches m o s ended o' t)
    (h' : Reaches n o' t ended' o'' u) : Reaches (m + n) o s (ended ++ ended') o'' u where
  run := (run_add m n s t h.run).trans h'.run
  sessions k := by rw [Nat.add_assoc, h.sessions, h'.sessions, List.append_assoc]

theorem Reaches.of_continue {s t : State} (o : Observation) (hstep : step s = .next t)
    (hs : startsSession s = false) : Reaches 1 o s [] (o.after s t) t where
  run := run_succ 0 s t hstep
  sessions k := by rw [Nat.add_comm, sessionsFrom_continue k o s t hstep hs, List.nil_append]

theorem Reaches.of_start {s t : State} (o : Observation) (hstep : step s = .next t)
    (hs : startsSession s = true) : Reaches 1 o s [o.close s] .start t where
  run := run_succ 0 s t hstep
  sessions k := by rw [Nat.add_comm, sessionsFrom_start k o s t hstep hs, List.singleton_append]

/-! ### Reads of `STATUS` -/

theorem Untouched.trans {s t u : State} (h : Untouched s t) (h' : Untouched t u) : Untouched s u := by
  obtain ⟨hregs, hbusy, herr, hcode, hpending⟩ := h
  obtain ⟨hregs', hbusy', herr', hcode', hpending'⟩ := h'
  exact ⟨hregs'.trans hregs, hbusy'.trans hbusy, herr'.trans herr, hcode'.trans hcode,
    hpending'.trans hpending⟩

/-- A read of `STATUS` leaves SC32 and the observation as they were (R47). -/
theorem exists_reaches_readStatus {s : State} {rest : List Input} (o : Observation)
    (hi : s.inputs = rd .status :: rest) :
    ∃ t, Reaches 1 o s [] o t ∧ t.inputs = rest ∧ Untouched s t := by
  have hs : startsSession s = false := by simp [startsSession, hi, rd]
  have hc : completesMsg s = false := by simp [completesMsg, engineNext, hi, rd]
  have hr : readsOut s = false := by simp [readsOut, hi, rd, Reg.offset]
  have h := Reaches.of_continue o (step_read_register s rest .status hi) hs
  rw [Observation.after_quiet o s _ hc hr] at h
  exact ⟨_, h, rfl, rfl, rfl, rfl, rfl, rfl⟩

theorem exists_reaches_readsStatus (b : Nat) {s : State} {rest : List Input} (o : Observation)
    (hi : s.inputs = List.replicate b (rd .status) ++ rest) :
    ∃ t, Reaches b o s [] o t ∧ t.inputs = rest ∧ Untouched s t := by
  induction b generalizing s with
  | zero => exact ⟨s, Reaches.refl o s, hi, rfl, rfl, rfl, rfl, rfl⟩
  | succ b ih =>
    obtain ⟨t, ht, hti, hst⟩ := exists_reaches_readStatus o hi
    obtain ⟨u, hu, hui, htu⟩ := ih hti
    exact ⟨u, Nat.add_comm 1 b ▸ ht.trans hu, hui, hst.trans htu⟩

/-! ### `POLL` -/

/-- What the host has of the session after the engine's turn: a `MSG` that completes there makes its
symbol available. -/
def Observation.completed (o : Observation) (s : State) : Observation :=
  if s.BUSY && s.PENDING.any fun p => isMsg p.op then { o with unread := true } else o

theorem Observation.completed_idle (o : Observation) {s : State} (h : s.BUSY = false) :
    o.completed s = o := by
  simp [Observation.completed, h]

theorem Observation.completed_accept (o : Observation) (i : Instr) (after : Regs) (s : State) :
    o.completed (accept i after s) = if isMsg i then { o with unread := true } else o := rfl

theorem Observation.completed_congr (o : Observation) {s t : State} (h : Untouched s t) :
    o.completed t = o.completed s := by
  obtain ⟨_, hbusy, _, _, hpending⟩ := h
  simp only [Observation.completed, hbusy, hpending]

theorem untouched_engineTurn {s t : State} (h : Untouched s t) :
    Untouched (engineTurn s) (engineTurn t) := by
  have ⟨hregs, hbusy, herr, hcode, hpending⟩ := h
  cases hb : s.BUSY with
  | false => rwa [engineTurn_idle s hb, engineTurn_idle t (hbusy.trans hb)]
  | true =>
    simp only [engineTurn, hbusy, hb, if_true, complete, hpending]
    cases s.PENDING with
    | none => exact ⟨hregs, rfl, herr, hcode, rfl⟩
    | some p => exact ⟨rfl, rfl, herr, hcode, rfl⟩

theorem exists_reaches_engine {s : State} {rest : List Input} (o : Observation)
    (hi : s.inputs = .engine :: rest) :
    ∃ t, Reaches 1 o s [] (o.completed s) t ∧ t.inputs = rest ∧ Untouched (engineTurn s) t := by
  have hs : startsSession s = false := by simp [startsSession, hi]
  have hafter (t : State) : o.after s t = o.completed s := by
    simp [Observation.after, Observation.completed, completesMsg, engineNext, readsOut, hi, rd]
  have h := Reaches.of_continue o (step_engine s rest hi) hs
  rw [hafter] at h
  exact ⟨_, h, by simp, untouched_engineTurn (untouched_takeInput rest s)⟩

/-- However often a `POLL` reads `BUSY = 1`, it leaves what the engine's turn leaves (R72, R129). -/
theorem exists_reaches_poll {b : Nat} {s : State} {rest : List Input} (o : Observation)
    (hi : s.inputs = poll b ++ rest) :
    ∃ t, Reaches (poll b).length o s [] (o.completed s) t ∧ t.inputs = rest ∧
      Untouched (engineTurn s) t := by
  obtain ⟨t, ht, hti, hst⟩ := exists_reaches_readsStatus b o (hi.trans (List.append_assoc _ _ _))
  obtain ⟨u, hu, hui, htu⟩ := exists_reaches_engine o hti
  obtain ⟨v, hv, hvi, huv⟩ := exists_reaches_readStatus (o.completed t) hui
  have hlen : (poll b).length = b + 1 + 1 := by simp [poll]
  rw [o.completed_congr hst] at hu hv
  rw [hlen]
  exact ⟨v, (ht.trans hu).trans hv, hvi, ((untouched_engineTurn hst).trans htu).trans huv⟩

/-! ### The write of a command -/

theorem exec_inputs {s t : State} {i : Instr} (ht : exec i s = .next t) : t.inputs = s.inputs := by
  obtain ⟨u, hu, hcases⟩ := exec_cases i s
  obtain rfl : u = t := by simpa [hu] using ht
  rcases hcases with ⟨rfl, _⟩ | ⟨e, _, rfl⟩ | ⟨_, _, _, rfl⟩
  · rfl
  · exact raise_inputs e s
  · cases i <;> rfl

/-- On an idle machine, of the commands' words that of `CLR` alone starts a session (R12, R102). -/
theorem startsSession_cmdWrite {s : State} {i : Instr} {rest : List Input}
    (hi : s.inputs = cmdWrite (encode i) :: rest) (hidle : s.BUSY = false) :
    startsSession s = true ↔ i = .clr := by
  simp [startsSession, hi, cmdWrite, hidle]

theorem reaches_submit {s u : State} {i : Instr} {rest : List Input} (o : Observation)
    (hi : s.inputs = cmdWrite (encode i) :: rest) (hidle : s.BUSY = false)
    (hu : exec i (takeInput rest s) = .next u) :
    Reaches 1 o s (if i = .clr then [o.close s] else []) (if i = .clr then .start else o)
      (respond okWrite u) := by
  have hstep : step s = .next (respond okWrite u) := by
    rw [step_cmdWrite_of_decode hi (decode_encode i), hu, answerOk_next]
  have hstart := startsSession_cmdWrite hi hidle
  split_ifs with hclr
  · exact Reaches.of_start o hstep (hstart.2 hclr)
  · have hr : readsOut s = false := by simp [readsOut, hi, rd, cmdWrite]
    have h := Reaches.of_continue o hstep (Bool.eq_false_iff.2 (mt hstart.1 hclr))
    rwa [Observation.after_quiet o s _ (completesMsg_idle s hidle) hr] at h

/-! ### From one idle state to the next -/

/-- What stands between two commands of a host: the registers and the latch of an idle machine, and what
the host has of the session in progress. -/
structure Standing where
  regs : Regs
  err : Bool
  code : ErrCode
  observed : Observation

/-- The result of the session in progress, if it ends here. -/
def Standing.result (c : Standing) : SessionResult := { outputs := c.observed.outputs, err := c.err }

/-- The idle states with these registers and this latch. -/
structure Standing.Of (c : Standing) (s : State) : Prop where
  regs : s.toRegs = c.regs
  busy : s.BUSY = false
  err : s.ERR = c.err
  code : s.ERRCODE = c.code

theorem Standing.Of.congr {c : Standing} {s t : State} (h : c.Of s) (hst : Untouched s t) : c.Of t := by
  obtain ⟨hregs, hbusy, herr, hcode, _⟩ := hst
  exact ⟨hregs.trans h.regs, hbusy.trans h.busy, herr.trans h.err, hcode.trans h.code⟩

/-- The events `xs`, with `rest` to follow, lead every idle state that stands at `c` to one that stands at
`c'`, and end the sessions `ended`. -/
def Leads (xs rest : List Input) (c : Standing) (ended : List SessionResult) (c' : Standing) : Prop :=
  ∀ s, s.inputs = xs ++ rest → c.Of s →
    ∃ t, Reaches xs.length c.observed s ended c'.observed t ∧ t.inputs = rest ∧ c'.Of t

theorem Leads.refl (rest : List Input) (c : Standing) : Leads [] rest c [] c :=
  fun s hi hc => ⟨s, Reaches.refl c.observed s, hi, hc⟩

theorem Leads.trans {xs ys rest : List Input} {c c' c'' : Standing} {ended ended' : List SessionResult}
    (h : Leads xs (ys ++ rest) c ended c') (h' : Leads ys rest c' ended' c'') :
    Leads (xs ++ ys) rest c (ended ++ ended') c'' := by
  intro s hi hc
  obtain ⟨t, ht, hti, hct⟩ := h s (hi.trans (List.append_assoc xs ys rest)) hc
  obtain ⟨u, hu, hui, hcu⟩ := h' t hti hct
  exact ⟨u, List.length_append ▸ ht.trans hu, hui, hcu⟩

theorem leads_readStatus (rest : List Input) (c : Standing) : Leads [rd .status] rest c [] c := by
  intro s hi hc
  obtain ⟨t, ht, hti, hst⟩ := exists_reaches_readStatus c.observed hi
  exact ⟨t, ht, hti, hc.congr hst⟩

/-- A command with its `POLL` leads to where the engine's turn after its submission stands (R72). -/
theorem leads_cmd {i : Instr} {c c' : Standing} (b : Nat) (rest : List Input)
    (h : ∀ s, c.Of s → ∃ u, exec i s = .next u ∧ c'.Of (engineTurn u) ∧
      (if i = .clr then .start else c.observed).completed u = c'.observed) :
    Leads (cmd i b) rest c (if i = .clr then [c.result] else []) c' := by
  intro s hi hc
  obtain ⟨u, hu, hcu, hobs⟩ := h _ (hc.congr (untouched_takeInput (poll b ++ rest) s))
  have hclose : c.observed.close s = c.result := congrArg (SessionResult.mk _) hc.err
  have hfirst := reaches_submit c.observed hi hc.busy hu
  rw [hclose] at hfirst
  have hui : (respond okWrite u).inputs = poll b ++ rest := exec_inputs hu
  obtain ⟨t, ht, hti, hut⟩ := exists_reaches_poll (if i = .clr then .start else c.observed) hui
  have hresp := untouched_respond okWrite u
  rw [Observation.completed_congr _ hresp, hobs] at ht
  have hlen : (cmd i b).length = 1 + (poll b).length := by rw [cmd, raw, List.length_append]; rfl
  rw [hlen]
  refine ⟨t, ?_, hti, hcu.congr ((untouched_engineTurn hresp).trans hut)⟩
  simpa using hfirst.trans ht

/-- `CLR` ends the session in progress and leads to a fresh one, from any registers and any latch
(R102). -/
theorem leads_clr (b : Nat) (rest : List Input) (c : Standing) :
    Leads (cmd .clr b) rest c [c.result]
      { regs := clearSession c.regs, err := false, code := .none, observed := .start } := by
  refine leads_cmd b rest fun s hc => ⟨_, exec_clr_idle hc.busy, ?_, rfl⟩
  rw [engineTurn_pending _ _ rfl rfl]
  exact ⟨congrArg clearSession hc.regs, rfl, rfl, rfl⟩

section
variable {i : Instr} {c : Standing} (hclr : i ≠ .clr) (b : Nat) (rest : List Input)
include hclr

theorem leads_cmd_of_ne_clr {c' : Standing}
    (h : ∀ s, c.Of s → ∃ u, exec i s = .next u ∧ c'.Of (engineTurn u) ∧
      c.observed.completed u = c'.observed) : Leads (cmd i b) rest c [] c' := by
  have hlead : Leads (cmd i b) rest c (if i = .clr then [c.result] else []) c' :=
    leads_cmd b rest (by simpa only [if_neg hclr] using h)
  rwa [if_neg hclr] at hlead

/-- An accepted command leads to the registers of its effect; a `MSG` makes a symbol available. -/
theorem leads_accepted {after : Regs}
    (h : ∀ s, c.Of s → exec i s = .next (accept i after s)) :
    Leads (cmd i b) rest c []
      { c with
        regs := after
        observed := if isMsg i then { c.observed with unread := true } else c.observed } := by
  refine leads_cmd_of_ne_clr hclr b rest fun s hc => ⟨_, h s hc, ?_, c.observed.completed_accept i _ _⟩
  rw [engineTurn_accept i after hc.busy]
  exact ⟨rfl, hc.busy, hc.err, hc.code⟩

/-- A rejected command leads to its error, with no other effect (R107). -/
theorem leads_raised {e : ErrCode} (hclear : c.err = false)
    (h : ∀ s, c.Of s → exec i s = .next (raise e s)) :
    Leads (cmd i b) rest c [] { c with err := true, code := e } := by
  refine leads_cmd_of_ne_clr hclr b rest fun s hc => ?_
  have hidle : (raise e s).BUSY = false := (raise_BUSY e s).trans hc.busy
  have hcode : (raise e s).ERRCODE = e := by simp [hc.err, hclear]
  refine ⟨_, h s hc, ?_, c.observed.completed_idle hidle⟩
  rw [engineTurn_idle _ hidle]
  exact ⟨(raise_toRegs e s).trans hc.regs, hidle, raise_ERR e s, hcode⟩

/-- An ignored command leads nowhere. -/
theorem leads_ignored (h : ∀ s, c.Of s → exec i s = .next s) : Leads (cmd i b) rest c [] c :=
  leads_cmd_of_ne_clr hclr b rest fun s hc =>
    ⟨s, h s hc, by rwa [engineTurn_idle s hc.busy], c.observed.completed_idle hc.busy⟩

end

end Sys2Proof.Machine
end

section
/-! PROOF. A host's characters (70_reset_and_hazards.md R135) and the lists of key and message indices they
give, as the machine stores and encrypts them and as the source does (42_key_schedule.md R82, R87,
43_keystream.md R92, R95). -/

namespace Sys2Proof.Machine

/-! ### The codes of characters -/

theorem hostCode_symbolAt : ∀ n < 37, hostCode (Source.symbolAt n) = unmap (BitVec.ofNat 6 n) := by
  decide

theorem lookup_hostCode_of_indexOf {ch : Char} {n : Nat} (h : Source.indexOf ch = some n) :
    lookup (hostCode ch) = some (BitVec.ofNat 6 n) := by
  obtain ⟨hn, rfl⟩ := (Source.indexOf_eq_some_iff ch n).1 h
  have hidx : (BitVec.ofNat 6 n).toNat < 37 := by rw [BitVec.toNat_ofNat]; omega
  rw [hostCode_symbolAt n hn, lookup_unmap hidx]

/-- A character outside the alphabet is given the code 0xFF, which is not found (R135). -/
theorem lookup_hostCode_of_not_symbol {ch : Char} (h : Source.indexOf ch = none) :
    lookup (hostCode ch) = none := by
  have hch : symbolChar ch ≠ true := by
    intro hsymbol
    obtain ⟨n, rfl⟩ := List.get_of_mem (mem_alphabet_of_symbolChar hsymbol)
    rw [(lookup_place n).1] at h
    cases h
  rw [hostCode, if_neg hch]
  rfl

theorem Source.indices_cons_eq_none_iff (ch : Char) (t : List Char) :
    Source.indices (ch :: t) = none ↔ Source.indexOf ch = none ∨ Source.indices t = none := by
  cases hn : Source.indexOf ch <;> cases ht : Source.indices t <;>
    simp [Option.eq_none_iff_forall_ne_some, Source.indices_cons_eq_some_iff, hn, ht]

/-- The indices of a text are below 37, so as 6-bit indices they are the same numbers. -/
theorem Source.toNat_indices {t : List Char} {ns : List Nat} (h : Source.indices t = some ns) :
    (ns.map (BitVec.ofNat 6)).map BitVec.toNat = ns := by
  obtain ⟨hns, -⟩ := (Source.indices_eq_some_iff t ns).1 h
  rw [List.map_map]
  refine (List.map_congr_left fun n hn => ?_).trans (List.map_id ns)
  exact Nat.mod_eq_of_lt (Nat.lt_trans (hns n hn) (by decide))

theorem Source.length_indices {t : List Char} {ns : List Nat} (h : Source.indices t = some ns) :
    ns.length = t.length := by
  obtain ⟨-, rfl⟩ := (Source.indices_eq_some_iff t ns).1 h
  rw [List.length_map]

theorem Source.length_outputs (st : List Nat) (i j : Nat) (ms : List Nat) :
    (Source.outputs st i j ms).length = ms.length := by
  induction ms generalizing st i j with
  | nil => rfl
  | cons m ms ih => exact congrArg (· + 1) (ih _ _ _)

/-! ### The key -/

theorem storeKeys_PHASE (ks : List Index) (r : Regs) : (storeKeys ks r).PHASE = r.PHASE := by
  induction ks generalizing r with
  | nil => rfl
  | cons k ks ih => exact (ih (storeKey k r)).trans (storeKey_PHASE r k)

theorem storeKeys_MCOUNT (ks : List Index) (r : Regs) : (storeKeys ks r).MCOUNT = r.MCOUNT := by
  induction ks generalizing r with
  | nil => rfl
  | cons k ks ih => exact (ih (storeKey k r)).trans (storeKey_MCOUNT r k)


/-- The schedule of a loaded key is the source's of the whole key, however long it is (R82, R87). -/
theorem permList_ksa_storeKeys {ks : List Index} (hne : ks ≠ []) {r : Regs} (hempty : r.KLEN = 0) :
    (storeKeys ks r).KLEN ≠ 0#6 ∧
    permList (ksa (storeKeys ks r).KEY (storeKeys ks r).KLEN).1 =
      Source.schedule (ks.map BitVec.toNat) := by
  have hpos : 0 < ks.length := List.length_pos_of_ne_nil hne
  have hklen : (storeKeys ks r).KLEN.toNat = min ks.length 32 :=
    (keyBufferLosesNothing r ks hempty hne).1
  obtain ⟨hschedule, -⟩ := keyScheduleIsTheSources (storeKeys ks r).KEY (storeKeys ks r).KLEN
    (by omega) (by omega)
  refine ⟨fun hzero => ?_, ?_⟩
  · rw [hzero, BitVec.toNat_zero] at hklen
    omega
  · rw [hschedule, keyList_storeKeys_of_empty ks hempty]
    exact Source.schedule_congr fun n hn => getD_mod_length_take _ hn

/-! ### The message -/

/-- The registers after the message indices `ms` have been encrypted, oldest first. -/
def encryptSymbols (ms : List Index) (r : Regs) : Regs := ms.foldl (fun r m => encryptSymbol m r) r

/-- The symbols `OUT` shows one after the other while `ms` are encrypted. -/
def outputCodes : List Index → Regs → List Code
  | [], _ => []
  | m :: ms, r => outSym (encryptSymbol m r).OUT :: outputCodes ms (encryptSymbol m r)

/-- `MCOUNT` counts the symbols of a message modulo 2^32 (10_state.md R31). -/
theorem encryptSymbols_MCOUNT (ms : List Index) (r : Regs) :
    (encryptSymbols ms r).MCOUNT = r.MCOUNT + BitVec.ofNat 32 ms.length := by
  induction ms generalizing r with
  | nil => exact (BitVec.add_zero r.MCOUNT).symm
  | cons m ms ih =>
    calc (encryptSymbols (m :: ms) r).MCOUNT
        = r.MCOUNT + 1 + BitVec.ofNat 32 ms.length := ih (encryptSymbol m r)
      _ = r.MCOUNT + BitVec.ofNat 32 (ms.length + 1) := by
        rw [BitVec.ofNat_add, BitVec.add_assoc, BitVec.add_comm 1]; rfl

/-- The keystream value as the source reads it from the list (R92). -/
theorem prgaR_toNat (p : Perm) (i j : Entry) : (prgaR p i j).toNat =
    (permList (prgaS p i j)).getD
      (((permList (prgaS p i j)).getD (prgaI i).toNat 0 +
        (permList (prgaS p i j)).getD (prgaJ p i j).toNat 0) % 32) 0 := by
  have ht : (prgaT p i j).toNat = ((permAt (prgaS p i j) (prgaI i)).toNat +
      (permAt (prgaS p i j) (prgaJ p i j)).toNat) % 32 := by
    simp [prgaT]
  rw [permList_getD, permList_getD, ← ht, permList_getD, prgaR]

/-- The symbol a `MSG` leaves in `OUT` is that of the source's output index (R95, R99). -/
theorem outSym_encryptSymbol (m : Index) (r : Regs) : outSym (encryptSymbol m r).OUT =
    hostCode (Source.symbolAt ((m.toNat ^^^ (prgaR r.S r.I r.J).toNat) % 37)) := by
  rw [encryptSymbol_OUT, outSym_outWord, ← combine_toNat,
    hostCode_symbolAt _ (Nat.lt_succ_of_le (combine_le _ _)), BitVec.ofNat_toNat, BitVec.setWidth_eq]

/-- The machine's outputs are the codes of the source's, from the same permutation and indices (R92,
R95). -/
theorem outputCodes_eq_outputs (ms : List Index) (r : Regs) :
    outputCodes ms r = ((Source.outputs (permList r.S) r.I.toNat r.J.toNat
      (ms.map BitVec.toNat)).map Source.symbolAt).map hostCode := by
  induction ms generalizing r with
  | nil => rfl
  | cons m ms ih =>
    have hS : permList (prgaS r.S r.I r.J) = Source.exchange (permList r.S) (prgaI r.I).toNat
      (prgaJ r.S r.I r.J).toNat := permList_swap _ _ _
    simp only [outputCodes, ih, outSym_encryptSymbol, prgaR_toNat, encryptSymbol_S, encryptSymbol_I,
      encryptSymbol_J, hS, prgaJ_toNat, prgaI_toNat, ← permList_getD, List.map_cons, Source.outputs]

end Sys2Proof.Machine
end

section
/-! PROOF. A host that runs `TRANSFORM` (30_encoding.md R73, 44_session_control.md R104, R105): where each
part of its script leads, and the four cases of a session's result. -/

namespace Sys2Proof.Machine

/-! ### The submissions that are rejected or ignored -/

theorem exec_key_of_notFound {s : State} {x : Code} (hidle : s.BUSY = false) (hclear : s.ERR = false)
    (hphase : s.PHASE = .keyload) (hx : lookup x = none) :
    exec (.key x) s = .next (raise .invalidKeySymbol s) := by
  simp [exec, execKey, symbolOperand, hidle, hclear, hphase, hx]

theorem exec_sched_of_empty {s : State} (hidle : s.BUSY = false) (hclear : s.ERR = false)
    (hphase : s.PHASE = .keyload) (hempty : s.KLEN = 0#6) :
    exec .sched s = .next (raise .emptyKey s) := by
  simp [exec, execSched, hidle, hclear, hphase, hempty]

theorem exec_msg_of_notFound {s : State} {x : Code} (hidle : s.BUSY = false) (hclear : s.ERR = false)
    (hphase : s.PHASE = .stream) (hx : lookup x = none) :
    exec (.msg x) s = .next (raise .invalidMsgSymbol s) := by
  simp [exec, execMsg, symbolOperand, hidle, hclear, hphase, hx]

/-- The commands an error latched stops (60_exceptions.md R108 step 4). -/
def IsSessionCommand (i : Instr) : Prop := (∃ x, i = .key x) ∨ i = .sched ∨ ∃ x, i = .msg x

theorem exec_latched {i : Instr} (hi : IsSessionCommand i) {s : State} (hidle : s.BUSY = false)
    (herr : s.ERR = true) : exec i s = .next s := by
  rcases hi with ⟨x, rfl⟩ | rfl | ⟨x, rfl⟩ <;>
    exact (whenIdle_idle s _ hidle).trans (whenClear_latched s _ herr)

theorem IsSessionCommand.leads_latched {i : Instr} (hi : IsSessionCommand i) (b : Nat)
    (rest : List Input) {c : Standing} (herr : c.err = true) : Leads (cmd i b) rest c [] c := by
  have hclr : i ≠ .clr := by rcases hi with ⟨x, rfl⟩ | rfl | ⟨x, rfl⟩ <;> simp
  exact leads_ignored hclr b rest fun s hc => exec_latched hi hc.busy (hc.err.trans herr)

/-! ### `KEYSTR` -/

/-- A session that loads its key: no error yet, and the phase `KEYLOAD`. -/
structure Standing.Loading (c : Standing) : Prop where
  clear : c.err = false
  phase : c.regs.PHASE = .keyload

theorem Standing.Loading.exec_phase {c : Standing} (hc : c.Loading) {s : State} (hs : c.Of s) :
    s.BUSY = false ∧ s.ERR = false ∧ s.PHASE = .keyload :=
  ⟨hs.busy, hs.err.trans hc.clear, (congrArg Regs.PHASE hs.regs).trans hc.phase⟩

theorem Standing.Loading.storeKey {c : Standing} (hc : c.Loading) (k : Index) :
    Standing.Loading { c with regs := storeKey k c.regs } :=
  ⟨hc.clear, (storeKey_PHASE c.regs k).trans hc.phase⟩

theorem leads_key_found {ch : Char} {n : Nat} {c : Standing} (hc : c.Loading) (b : Nat)
    (rest : List Input) (hn : Source.indexOf ch = some n) :
    Leads (cmd (.key (hostCode ch)) b) rest c []
      { c with regs := storeKey (BitVec.ofNat 6 n) c.regs } := by
  refine leads_accepted (by simp) b rest fun s hs => ?_
  obtain ⟨hidle, hclear, hphase⟩ := hc.exec_phase hs
  rw [← hs.regs]
  exact exec_key_of_found hidle hclear hphase (lookup_hostCode_of_indexOf hn)

theorem leads_key_notFound {ch : Char} {c : Standing} (hc : c.Loading) (b : Nat) (rest : List Input)
    (hn : Source.indexOf ch = none) :
    Leads (cmd (.key (hostCode ch)) b) rest c []
      { c with err := true, code := .invalidKeySymbol } := by
  refine leads_raised (by simp) b rest hc.clear fun s hs => ?_
  obtain ⟨hidle, hclear, hphase⟩ := hc.exec_phase hs
  exact exec_key_of_notFound hidle hclear hphase (lookup_hostCode_of_not_symbol hn)

/-- A key of the alphabet is stored symbol by symbol. -/
theorem leads_keyStr {k : List (Char × Nat)} {ks : List Nat} (rest : List Input) {c : Standing}
    (hc : c.Loading) (hks : Source.indices (k.map Prod.fst) = some ks) :
    Leads (keyStr k) rest c [] { c with regs := storeKeys (ks.map (BitVec.ofNat 6)) c.regs } := by
  induction k generalizing ks c with
  | nil =>
    obtain rfl : [] = ks := Option.some.inj hks
    exact Leads.refl rest c
  | cons cb k ih =>
    obtain ⟨n, ns, hn, hns, rfl⟩ := (Source.indices_cons_eq_some_iff _ _ _).1 hks
    exact (leads_key_found hc cb.2 _ hn).trans (ih (hc.storeKey (BitVec.ofNat 6 n)) hns)

theorem leads_keyStr_latched (k : List (Char × Nat)) (rest : List Input) {c : Standing}
    (herr : c.err = true) : Leads (keyStr k) rest c [] c := by
  induction k with
  | nil => exact Leads.refl rest c
  | cons cb k ih => exact (IsSessionCommand.leads_latched (.inl ⟨_, rfl⟩) cb.2 _ herr).trans ih

/-- A key with a character outside the alphabet is stored up to that character, whose error ends the
loading. -/
theorem leads_keyStr_bad {k : List (Char × Nat)} (rest : List Input) {c : Standing} (hc : c.Loading)
    (hks : Source.indices (k.map Prod.fst) = none) :
    ∃ r : Regs, r.MCOUNT = c.regs.MCOUNT ∧
      Leads (keyStr k) rest c [] { c with regs := r, err := true, code := .invalidKeySymbol } := by
  induction k generalizing c with
  | nil => cases hks
  | cons cb k ih =>
    cases hn : Source.indexOf cb.1 with
    | none =>
      exact ⟨c.regs, rfl, (leads_key_notFound hc cb.2 _ hn).trans (leads_keyStr_latched k rest rfl)⟩
    | some n =>
      have htail : Source.indices (k.map Prod.fst) = none := by
        simpa [hn] using (Source.indices_cons_eq_none_iff _ _).1 hks
      obtain ⟨r, hr, hlead⟩ := ih (hc.storeKey (BitVec.ofNat 6 n)) htail
      exact ⟨r, hr.trans (storeKey_MCOUNT _ _), (leads_key_found hc cb.2 _ hn).trans hlead⟩

/-! ### `SCHED` -/

theorem leads_sched {c : Standing} (hc : c.Loading) (b : Nat) (rest : List Input)
    (hkey : c.regs.KLEN ≠ 0#6) :
    Leads (cmd .sched b) rest c [] { c with regs := schedule prgaJSeed c.regs } := by
  refine leads_accepted (by simp) b rest fun s hs => ?_
  obtain ⟨hidle, hclear, hphase⟩ := hc.exec_phase hs
  rw [← hs.regs] at hkey ⊢
  exact exec_sched_of_key hidle hclear hphase hkey

theorem leads_sched_empty {c : Standing} (hc : c.Loading) (b : Nat) (rest : List Input)
    (hempty : c.regs.KLEN = 0#6) :
    Leads (cmd .sched b) rest c [] { c with err := true, code := .emptyKey } := by
  refine leads_raised (by simp) b rest hc.clear fun s hs => ?_
  obtain ⟨hidle, hclear, hphase⟩ := hc.exec_phase hs
  rw [← hs.regs] at hempty
  exact exec_sched_of_empty hidle hclear hphase hempty

/-! ### The read of `OUT` -/

/-- What an idle read of `OUT` that shows the symbol `x` adds: the symbol, if a completed `MSG` is
unread. -/
def Observation.takes (o : Observation) (x : Code) : Observation :=
  if o.unread then { outputs := o.outputs ++ [x], unread := false } else o

theorem Observation.takes_of_read {o : Observation} (x : Code) (h : o.unread = false) :
    o.takes x = o := by
  simp [Observation.takes, h]

theorem delivered_of_not_reset {t : State} (h : t.inputs.head? ≠ some .reset) :
    delivered t = t.response := by
  unfold delivered
  split
  · next hi => exact absurd (congrArg List.head? hi) h
  · rfl

theorem Observation.after_readOut (o : Observation) {s t : State} {r : Response}
    (hstep : step s = .next t) (hread : readsOut s = true) (hidle : s.BUSY = false)
    (hr : delivered t = some r) : o.after s t = o.takes (outSym s.OUT) := by
  have hsym := outSym_delivered hstep hread hidle hr
  cases hu : o.unread <;>
    simp [Observation.after, Observation.takes, completesMsg_idle s hidle, hread, hidle, hr, hsym, hu]

/-- A read of `OUT` shows its symbol, unless a reset edge comes before the response (R47, R124). -/
theorem leads_readOut {rest : List Input} (hrest : rest.head? ≠ some .reset) (c : Standing) :
    Leads [rd .out] rest c [] { c with observed := c.observed.takes (outSym c.regs.OUT) } := by
  intro s hi hc
  have hs : startsSession s = false := by simp [startsSession, hi, rd]
  have hread : readsOut s = true := by simp [readsOut, hi]
  have hstep := step_read_register s rest .out hi
  have h := Reaches.of_continue c.observed hstep hs
  rw [c.observed.after_readOut hstep hread hc.busy (delivered_of_not_reset hrest), hc.regs] at h
  exact ⟨_, h, rfl, rfl, hc.busy, hc.err, hc.code⟩

/-! ### `MSGSTR` -/

/-- A session that encrypts: no error yet, the phase `STREAM`, and no symbol left to read. -/
structure Standing.Streaming (c : Standing) : Prop where
  clear : c.err = false
  phase : c.regs.PHASE = .stream
  read : c.observed.unread = false

theorem Standing.Streaming.exec_phase {c : Standing} (hc : c.Streaming) {s : State} (hs : c.Of s) :
    s.BUSY = false ∧ s.ERR = false ∧ s.PHASE = .stream :=
  ⟨hs.busy, hs.err.trans hc.clear, (congrArg Regs.PHASE hs.regs).trans hc.phase⟩

/-- Where a session stands after the message indices `ms` have been encrypted and read. -/
def Standing.encrypted (c : Standing) (ms : List Index) : Standing :=
  { c with
    regs := encryptSymbols ms c.regs
    observed := { outputs := c.observed.outputs ++ outputCodes ms c.regs, unread := false } }

theorem Standing.Streaming.encrypted_nil {c : Standing} (hc : c.Streaming) : c.encrypted [] = c := by
  obtain ⟨regs, err, code, outputs, unread⟩ := c
  obtain rfl : unread = false := hc.read
  simp [Standing.encrypted, encryptSymbols, outputCodes]

theorem Standing.encrypted_cons (c : Standing) (m : Index) (ms : List Index) :
    (c.encrypted [m]).encrypted ms = c.encrypted (m :: ms) := by
  simp [Standing.encrypted, encryptSymbols, outputCodes]

theorem encryptSymbols_PHASE (ms : List Index) (r : Regs) : (encryptSymbols ms r).PHASE = r.PHASE := by
  induction ms generalizing r with
  | nil => rfl
  | cons m ms ih => exact ih (encryptSymbol m r)

theorem Standing.Streaming.encrypted {c : Standing} (hc : c.Streaming) (ms : List Index) :
    (c.encrypted ms).Streaming :=
  ⟨hc.clear, (encryptSymbols_PHASE ms c.regs).trans hc.phase, rfl⟩

/-- One symbol of a message: its command, and the read of its output (R73). -/
theorem leads_msg_found {ch : Char} {n : Nat} {c : Standing} (hc : c.Streaming) (b : Nat)
    {rest : List Input} (hrest : rest.head? ≠ some .reset) (hn : Source.indexOf ch = some n) :
    Leads (cmd (.msg (hostCode ch)) b ++ [rd .out]) rest c [] (c.encrypted [BitVec.ofNat 6 n]) := by
  have hcmd : Leads (cmd (.msg (hostCode ch)) b) ([rd .out] ++ rest) c []
      { c with
        regs := encryptSymbol (BitVec.ofNat 6 n) c.regs
        observed := { c.observed with unread := true } } := by
    refine leads_accepted (by simp) b _ fun s hs => ?_
    obtain ⟨hidle, hclear, hphase⟩ := hc.exec_phase hs
    rw [← hs.regs]
    exact exec_msg_of_found hidle hclear hphase (lookup_hostCode_of_indexOf hn)
  exact hcmd.trans (leads_readOut hrest _)

theorem leads_msg_notFound {ch : Char} {c : Standing} (hc : c.Streaming) (b : Nat)
    {rest : List Input} (hrest : rest.head? ≠ some .reset) (hn : Source.indexOf ch = none) :
    Leads (cmd (.msg (hostCode ch)) b ++ [rd .out]) rest c []
      { c with err := true, code := .invalidMsgSymbol } := by
  have hcmd : Leads (cmd (.msg (hostCode ch)) b) ([rd .out] ++ rest) c []
      { c with err := true, code := .invalidMsgSymbol } := by
    refine leads_raised (by simp) b _ hc.clear fun s hs => ?_
    obtain ⟨hidle, hclear, hphase⟩ := hc.exec_phase hs
    exact exec_msg_of_notFound hidle hclear hphase (lookup_hostCode_of_not_symbol hn)
  have hread := leads_readOut hrest { c with err := true, code := .invalidMsgSymbol }
  rw [Observation.takes_of_read _ hc.read] at hread
  exact hcmd.trans hread

/-- A message begins with a write, so what follows a symbol is no reset edge. -/
theorem head_msgStr_append (m : List (Char × Nat)) {rest : List Input}
    (hrest : rest.head? ≠ some .reset) : (msgStr m ++ rest).head? ≠ some .reset := by
  cases m with
  | nil => exact hrest
  | cons cb m => simp [msgStr, cmd, raw, cmdWrite]

/-- A message of the alphabet is encrypted and read symbol by symbol. -/
theorem leads_msgStr {m : List (Char × Nat)} {ms : List Nat} {rest : List Input}
    (hrest : rest.head? ≠ some .reset) {c : Standing} (hc : c.Streaming)
    (hms : Source.indices (m.map Prod.fst) = some ms) :
    Leads (msgStr m) rest c [] (c.encrypted (ms.map (BitVec.ofNat 6))) := by
  induction m generalizing ms c with
  | nil =>
    obtain rfl : [] = ms := Option.some.inj hms
    rw [List.map_nil, hc.encrypted_nil]
    exact Leads.refl rest c
  | cons cb m ih =>
    obtain ⟨n, ns, hn, hns, rfl⟩ := (Source.indices_cons_eq_some_iff _ _ _).1 hms
    rw [List.map_cons, ← Standing.encrypted_cons]
    exact (leads_msg_found hc cb.2 (head_msgStr_append m hrest) hn).trans (ih (hc.encrypted _) hns)

/-- After an error no symbol of a message is encrypted, and no output is read (R133). -/
theorem leads_msgStr_latched (m : List (Char × Nat)) {rest : List Input}
    (hrest : rest.head? ≠ some .reset) {c : Standing} (herr : c.err = true)
    (hread : c.observed.unread = false) : Leads (msgStr m) rest c [] c := by
  induction m with
  | nil => exact Leads.refl rest c
  | cons cb m ih =>
    have hout := leads_readOut (head_msgStr_append m hrest) c
    rw [Observation.takes_of_read _ hread] at hout
    exact ((IsSessionCommand.leads_latched (.inr (.inr ⟨_, rfl⟩)) cb.2 _ herr).trans hout).trans ih

/-- A message with a character outside the alphabet is encrypted up to that character, whose error ends
the encryption. -/
theorem leads_msgStr_bad {pre post : List (Char × Nat)} {bad : Char × Nat} {ms : List Nat}
    {rest : List Input} (hrest : rest.head? ≠ some .reset) {c : Standing} (hc : c.Streaming)
    (hms : Source.indices (pre.map Prod.fst) = some ms) (hbad : Source.indexOf bad.1 = none) :
    Leads (msgStr (pre ++ bad :: post)) rest c []
      { c.encrypted (ms.map (BitVec.ofNat 6)) with err := true, code := .invalidMsgSymbol } := by
  have hsplit : msgStr (pre ++ bad :: post) =
      msgStr pre ++ (cmd (.msg (hostCode bad.1)) bad.2 ++ [rd .out] ++ msgStr post) := by
    simp [msgStr]
  have hpost := head_msgStr_append post hrest
  rw [hsplit]
  refine (leads_msgStr (by simp [cmd, raw, cmdWrite]) hc hms).trans ?_
  exact (leads_msg_notFound (hc.encrypted _) bad.2 hpost hbad).trans
    (leads_msgStr_latched post hrest rfl rfl)

/-! ### `TRANSFORM` -/

/-- The session a `CLR` starts. -/
def Standing.cleared (c : Standing) : Standing :=
  { regs := clearSession c.regs, err := false, code := .none, observed := .start }

theorem Standing.loading_cleared (c : Standing) : c.cleared.Loading := ⟨rfl, rfl⟩

theorem leads_transformScript {bClr bSched : Nat} {k m : List (Char × Nat)} {rest : List Input}
    {c c₁ c₂ c₃ : Standing}
    (hkey : Leads (keyStr k) (cmd .sched bSched ++ (msgStr m ++ ([rd .status] ++ rest))) c.cleared [] c₁)
    (hsched : Leads (cmd .sched bSched) (msgStr m ++ ([rd .status] ++ rest)) c₁ [] c₂)
    (hmsg : Leads (msgStr m) ([rd .status] ++ rest) c₂ [] c₃) :
    Leads (transformScript bClr k bSched m) rest c [c.result] c₃ :=
  ((((leads_clr bClr _ c).trans hkey).trans hsched).trans hmsg).trans (leads_readStatus rest c₃)

/-- The script's last read, of `STATUS`, follows the message, so no reset edge does. -/
theorem head_readStatus (rest : List Input) : ([rd .status] ++ rest).head? ≠ some .reset := by
  simp [rd]

/-- Where a session stands after it has loaded a key and scheduled it. -/
def Standing.scheduled (c : Standing) (ks : List Index) : Standing :=
  { c.cleared with regs := schedule prgaJSeed (storeKeys ks (clearSession c.regs)) }

theorem Standing.streaming_scheduled (c : Standing) (ks : List Index) : (c.scheduled ks).Streaming :=
  ⟨rfl, rfl, rfl⟩

theorem leads_transformScript_of_key {bClr bSched : Nat} {k m : List (Char × Nat)} {ks : List Nat}
    {rest : List Input} {c c' : Standing} (hks : Source.indices (k.map Prod.fst) = some ks)
    (hne : ks ≠ [])
    (hmsg : Leads (msgStr m) ([rd .status] ++ rest) (c.scheduled (ks.map (BitVec.ofNat 6))) [] c') :
    Leads (transformScript bClr k bSched m) rest c [c.result] c' := by
  have hklen := (permList_ksa_storeKeys (ks := ks.map (BitVec.ofNat 6)) (r := clearSession c.regs)
    (by simpa using hne) rfl).1
  have hphase := storeKeys_PHASE (ks.map (BitVec.ofNat 6)) (clearSession c.regs)
  exact leads_transformScript (leads_keyStr _ c.loading_cleared hks)
    (leads_sched ⟨rfl, hphase⟩ bSched _ hklen) hmsg

/-- The outputs of a session with a key loaded are the codes of the source's, and `MCOUNT` counts
them. -/
theorem Standing.outputs_encrypted_scheduled (c : Standing) {ks ms : List Nat} {k m : List Char}
    (hks : Source.indices k = some ks) (hne : ks ≠ []) (hms : Source.indices m = some ms) :
    ((c.scheduled (ks.map (BitVec.ofNat 6))).encrypted (ms.map (BitVec.ofNat 6))).observed.outputs =
      ((Source.outputs (Source.schedule ks) 0 0 ms).map Source.symbolAt).map hostCode := by
  have hperm := (permList_ksa_storeKeys (ks := ks.map (BitVec.ofNat 6)) (r := clearSession c.regs)
    (by simpa using hne) rfl).2
  rw [Source.toNat_indices hks] at hperm
  have hcodes := outputCodes_eq_outputs (ms.map (BitVec.ofNat 6))
    (c.scheduled (ks.map (BitVec.ofNat 6))).regs
  rw [Source.toNat_indices hms] at hcodes
  rw [← hperm]
  exact hcodes

theorem Standing.MCOUNT_encrypted_scheduled (c : Standing) (ks ms : List Index) :
    ((c.scheduled ks).encrypted ms).regs.MCOUNT.toNat = ms.length % 4294967296 := by
  have hzero : (c.scheduled ks).regs.MCOUNT = 0#32 := storeKeys_MCOUNT ks (clearSession c.regs)
  simp [Standing.encrypted, encryptSymbols_MCOUNT, hzero]

/-! ### The session of a script -/

/-- Where an idle state stands when its observation begins. -/
def Standing.ofState (s : State) : Standing :=
  { regs := s.toRegs, err := s.ERR, code := s.ERRCODE, observed := .start }

/-- The two sessions of a script that starts one, and how the second ends when another starts after the
script (R12). -/
theorem Leads.sessions {xs rest : List Input} {s : State} {c : Standing}
    (h : Leads xs rest (.ofState s) [(Standing.ofState s).result] c) (hidle : s.BUSY = false)
    (hi : s.inputs = xs ++ rest) :
    Machine.sessions xs.length s = [{ outputs := [], err := s.ERR }, c.result] ∧
    ∃ t, Sys2Proof.core.run xs.length s = .next t ∧ c.Of t ∧ t.inputs = rest ∧
      (startsSession t = true → ∀ n, ∃ more, more ≠ [] ∧
        Machine.sessions (xs.length + 1 + n) s =
          { outputs := [], err := s.ERR } :: c.result :: more) := by
  obtain ⟨t, ht, hti, hc⟩ := h s hi ⟨rfl, hidle, rfl, rfl⟩
  have hclose : c.observed.close t = c.result := congrArg (SessionResult.mk _) hc.err
  refine ⟨?_, t, ht.run, hc, hti, fun hs n => ?_⟩
  · rw [← hclose]
    exact ht.sessions 0
  · obtain ⟨u, hu⟩ := exists_step_eq_next t
    refine ⟨sessionsFrom n .start u, sessionsFrom_ne_nil n _ u, ?_⟩
    rw [← hclose, ← sessionsFrom_start n c.observed t u hu hs, Nat.add_assoc, Nat.add_comm 1]
    exact ht.sessions (n + 1)

/-- Settles O48: the script leads through the schedule of the key and the symbols of the message. -/
theorem sessionComputesTransform : Obligations.SessionComputesTransform := by
  intro s k m bClr bSched rest out hidle hi htransform
  obtain ⟨ks, ms, hks, hms, hne, rfl⟩ := (Source.transform_eq_some_iff _ _ _).1 htransform
  have hlength : ms.length = m.length := by simpa using Source.length_indices hms
  have hmsg := leads_msgStr (head_readStatus rest)
    ((Standing.ofState s).streaming_scheduled (ks.map (BitVec.ofNat 6))) hms
  have hlead := leads_transformScript_of_key (bClr := bClr) (bSched := bSched) hks hne hmsg
  obtain ⟨hsessions, t, hrun, hc, hti, hnext⟩ := hlead.sessions hidle hi
  have houtputs := (Standing.ofState s).outputs_encrypted_scheduled hks hne hms
  refine ⟨_, houtputs, rfl, ?_, ?_, hsessions, t, hrun, hc.busy, hc.err, hti, ?_, hnext⟩
  · exact congrArg some houtputs
  · rw [List.length_map, Source.length_outputs, hlength]
  · rw [hc.regs, Standing.MCOUNT_encrypted_scheduled, List.length_map, hlength]

/-- Settles O49: the error of the key latches, and what follows of the script is ignored. -/
theorem badKeySessionHasNoResult : Obligations.BadKeySessionHasNoResult := by
  intro s k m bClr bSched rest hidle hi hks
  obtain ⟨r, hr, hkey⟩ := leads_keyStr_bad (cmd .sched bSched ++ (msgStr m ++ ([rd .status] ++ rest)))
    (Standing.ofState s).loading_cleared hks
  have hlead := leads_transformScript (bClr := bClr) hkey
    (IsSessionCommand.leads_latched (.inr (.inl rfl)) bSched _ rfl)
    (leads_msgStr_latched m (head_readStatus rest) rfl rfl)
  obtain ⟨hsessions, t, hrun, hc, hti, -⟩ := hlead.sessions hidle hi
  exact ⟨⟨_, rfl, rfl, rfl, hsessions⟩, t, hrun, hc.busy, hc.err, hc.code,
    (congrArg Regs.MCOUNT hc.regs).trans hr, hti⟩

/-- Settles O50: `SCHED` finds no key, and the message is ignored. -/
theorem emptyKeySessionHasNoResult : Obligations.EmptyKeySessionHasNoResult := by
  intro s m bClr bSched rest hidle hi
  have hlead := leads_transformScript (bClr := bClr)
    (leads_keyStr _ (Standing.ofState s).loading_cleared (k := []) rfl)
    (leads_sched_empty (Standing.ofState s).loading_cleared bSched _ rfl)
    (leads_msgStr_latched m (head_readStatus rest) rfl rfl)
  obtain ⟨hsessions, t, hrun, hc, hti, -⟩ := hlead.sessions hidle hi
  exact ⟨⟨_, rfl, rfl, rfl, hsessions⟩, t, hrun, hc.busy, hc.err, hc.code,
    congrArg Regs.MCOUNT hc.regs, hti⟩

/-- Settles O51: the part of the message before the bad character is encrypted as in a session of its
own. -/
theorem badMessageSessionHasNoResult : Obligations.BadMessageSessionHasNoResult := by
  intro s k pre post bad bClr bSched rest hidle hi hk hks hms hbad
  obtain ⟨ks, hks⟩ := Option.isSome_iff_exists.1 hks
  obtain ⟨ms, hms⟩ := Option.isSome_iff_exists.1 hms
  have hne : ks ≠ [] := by
    rintro rfl
    have hempty := Source.length_indices hks
    rw [List.length_map] at hempty
    exact hk (List.length_eq_zero_iff.1 hempty.symm)
  have hlength : ms.length = pre.length := by simpa using Source.length_indices hms
  have hmsg := leads_msgStr_bad (post := post) (head_readStatus rest)
    ((Standing.ofState s).streaming_scheduled (ks.map (BitVec.ofNat 6))) hms hbad
  have hlead := leads_transformScript_of_key (bClr := bClr) (bSched := bSched) hks hne hmsg
  obtain ⟨hsessions, t, hrun, hc, hti, -⟩ := hlead.sessions hidle hi
  refine ⟨⟨_, _, (Source.transform_eq_some_iff _ _ _).2 ⟨ks, ms, hks, hms, hne, rfl⟩,
    (Standing.ofState s).outputs_encrypted_scheduled hks hne hms, rfl, rfl, hsessions⟩,
    t, hrun, hc.busy, hc.err, hc.code, ?_, hti⟩
  rw [congrArg Regs.MCOUNT hc.regs]
  exact ((Standing.ofState s).MCOUNT_encrypted_scheduled _ _).trans
    (by rw [List.length_map, hlength])

end Sys2Proof.Machine
end

section
/-! PROOF. The submission of a command word (60_exceptions.md R107, R108, R111): the checks of each command
in their order, and what a submission to a busy machine leaves. -/

namespace Sys2Proof.Machine

/-- Settles O29. -/
theorem raiseKeepsTheFirstError : Obligations.RaiseKeepsTheFirstError :=
  fun e s => ⟨raise_of_clear e s, raise_of_latched e s⟩

/-! ### A busy machine -/

/-- Check 1 of R108 comes before every other, whatever the command. -/
theorem exec_busy {s : State} (i : Instr) (hbusy : s.BUSY = true) :
    exec i s = .next (raise .overrun s) := by
  cases i <;> exact whenIdle_busy s _ hbusy

theorem submitCommand_busy {s : State} (w : Word) (hbusy : s.BUSY = true) :
    submitCommand w s = .next (raise .overrun s) := by
  rcases submitCommand_cases w s with ⟨_, _, hraise⟩ | ⟨i, _, hexec⟩
  · rw [hraise, if_pos hbusy]
  · rw [hexec, exec_busy i hbusy]

/-- Settles O31. -/
theorem overrunSurvivesCompletion : Obligations.OverrunSurvivesCompletion := by
  intro s w rest p hi hbusy hp hclear
  refine ⟨_, ?_, rfl, engineTurn_pending _ p hbusy hp⟩
  rw [step_cmdWrite s rest w hi, submitCommand_busy (s := takeInput rest s) w hbusy,
    raise_of_clear .overrun (takeInput rest s) hclear]
  rfl

/-! ### The checks on an idle machine -/

theorem Phase.ne_stream_iff {p : Phase} : p ≠ .stream ↔ p = .keyload := by cases p <;> decide

theorem Phase.ne_keyload_iff {p : Phase} : p ≠ .keyload ↔ p = .stream := by cases p <;> decide

theorem exec_key_of_stream {s : State} (c : Code) (hidle : s.BUSY = false) (hclear : s.ERR = false)
    (hphase : s.PHASE = .stream) : exec (.key c) s = .next (raise .sequence s) := by
  simp [exec, execKey, hidle, hclear, hphase]

theorem exec_sched_of_stream {s : State} (hidle : s.BUSY = false) (hclear : s.ERR = false)
    (hphase : s.PHASE = .stream) : exec .sched s = .next (raise .sequence s) := by
  simp [exec, execSched, hidle, hclear, hphase]

theorem exec_msg_of_keyload {s : State} (c : Code) (hidle : s.BUSY = false) (hclear : s.ERR = false)
    (hphase : s.PHASE = .keyload) : exec (.msg c) s = .next (raise .sequence s) := by
  simp [exec, execMsg, hidle, hclear, hphase]

/-- Checks 4 to 7 of R108 for `KEY`. -/
theorem exec_key_checks {s : State} (c : Code) (hidle : s.BUSY = false) :
    exec (.key c) s = .next (
      if s.ERR = true then s
      else if s.PHASE = .stream then raise .sequence s
      else if lookup c = none then raise .invalidKeySymbol s
      else accept (.key c) (operation (.key c) s.toRegs) s) := by
  split_ifs with herr hstream hnone
  · exact exec_latched (.inl ⟨c, rfl⟩) hidle herr
  · exact exec_key_of_stream c hidle (Bool.eq_false_iff.2 herr) hstream
  · exact exec_key_of_notFound hidle (Bool.eq_false_iff.2 herr) (Phase.ne_stream_iff.1 hstream) hnone
  · obtain ⟨k, hk⟩ := Option.ne_none_iff_exists'.1 hnone
    rw [exec_key_of_found hidle (Bool.eq_false_iff.2 herr) (Phase.ne_stream_iff.1 hstream) hk]
    simp only [operation, symbolOperand, hk]

/-- Checks 4 to 7 of R108 for `SCHED`. -/
theorem exec_sched_checks {s : State} (hidle : s.BUSY = false) :
    exec .sched s = .next (
      if s.ERR = true then s
      else if s.PHASE = .stream then raise .sequence s
      else if s.KLEN = 0 then raise .emptyKey s
      else accept .sched (operation .sched s.toRegs) s) := by
  split_ifs with herr hstream hempty
  · exact exec_latched (.inr (.inl rfl)) hidle herr
  · exact exec_sched_of_stream hidle (Bool.eq_false_iff.2 herr) hstream
  · exact exec_sched_of_empty hidle (Bool.eq_false_iff.2 herr) (Phase.ne_stream_iff.1 hstream) hempty
  · exact exec_sched_of_key hidle (Bool.eq_false_iff.2 herr) (Phase.ne_stream_iff.1 hstream) hempty

/-- Checks 4 to 7 of R108 for `MSG`. -/
theorem exec_msg_checks {s : State} (c : Code) (hidle : s.BUSY = false) :
    exec (.msg c) s = .next (
      if s.ERR = true then s
      else if s.PHASE = .keyload then raise .sequence s
      else if lookup c = none then raise .invalidMsgSymbol s
      else accept (.msg c) (operation (.msg c) s.toRegs) s) := by
  split_ifs with herr hkeyload hnone
  · exact exec_latched (.inr (.inr ⟨c, rfl⟩)) hidle herr
  · exact exec_msg_of_keyload c hidle (Bool.eq_false_iff.2 herr) hkeyload
  · exact exec_msg_of_notFound hidle (Bool.eq_false_iff.2 herr) (Phase.ne_keyload_iff.1 hkeyload) hnone
  · obtain ⟨m, hm⟩ := Option.ne_none_iff_exists'.1 hnone
    rw [exec_msg_of_found hidle (Bool.eq_false_iff.2 herr) (Phase.ne_keyload_iff.1 hkeyload) hm]
    simp only [operation, symbolOperand, hm]

/-- Settles O30, by the word's decoding and the checks of its command. -/
theorem submissionChecksInOrder : Obligations.SubmissionChecksInOrder := by
  intro s w
  cases hb : s.BUSY with
  | true => exact ⟨_, submitCommand_busy w hb, by simp⟩
  | false =>
    simp only [Bool.false_eq_true, if_false]
    cases hd : decode w with
    | illegal why => exact ⟨_, submitCommand_illegal hd hb, rfl⟩
    | command i =>
      rw [submitCommand_of_decode s hd]
      cases i with
      | nop => exact ⟨_, exec_nop_idle hb, rfl⟩
      | clr => exact ⟨_, exec_clr_idle hb, rfl⟩
      | key c => exact ⟨_, exec_key_checks c hb, by dsimp only; split_ifs <;> rfl⟩
      | sched => exact ⟨_, exec_sched_checks hb, by dsimp only; split_ifs <;> rfl⟩
      | msg c => exact ⟨_, exec_msg_checks c hb, by dsimp only; split_ifs <;> rfl⟩
      | map c => exact ⟨_, exec_map_idle c hb, rfl⟩
      | unmap n => exact ⟨_, exec_unmap_idle n hb, rfl⟩

end Sys2Proof.Machine
end

section
/-! PROOF. Steps and completion (60_exceptions.md R109, R111, R113): a run never stops, each step takes one
event, and the operation in progress completes as it was accepted. -/

namespace Sys2Proof.Machine

/-! ### A step takes one event -/

/-- Settles O19. -/
theorem stepNeverStops : Obligations.StepNeverStops := exists_step_eq_next

theorem submitCommand_inputs {s t : State} {w : Word} (ht : submitCommand w s = .next t) :
    t.inputs = s.inputs := by
  rcases submitCommand_cases w s with ⟨_, _, hraise⟩ | ⟨i, _, hexec⟩
  · obtain rfl : raise _ s = t := by simpa [hraise] using ht
    exact raise_inputs _ s
  · exact exec_inputs (hexec ▸ ht)

theorem step_inputs {s t : State} (hstep : step s = .next t) : t.inputs = s.inputs.tail := by
  rcases step_cases s with
    ⟨rest, hi, e⟩ | ⟨rest, hi, e⟩ | ⟨w, rest, hi, e⟩ | ⟨_, rest, u, hi, _, e, _, hu⟩
  · obtain rfl : engineTurn _ = t := by simpa [e] using hstep
    rw [engineTurn_inputs, takeInput_inputs]
    rcases hi with hi | ⟨hi, rfl⟩ <;> rw [hi] <;> rfl
  · obtain rfl : resetEdge _ = t := by simpa [e] using hstep
    rw [resetEdge_inputs, takeInput_inputs, hi, List.tail_cons]
  · obtain ⟨u, hu, rfl⟩ := (answerOk_eq_next _ _).1 (e.symm.trans hstep)
    rw [respond_inputs, submitCommand_inputs hu, takeInput_inputs, hi, List.tail_cons]
  · obtain rfl : u = t := by simpa [e] using hstep
    rw [hu, hi, List.tail_cons]

theorem exists_run_inputs (n : Nat) (s : State) :
    ∃ t, Sys2Proof.core.run n s = .next t ∧ t.inputs = s.inputs.drop n := by
  induction n generalizing s with
  | zero => exact ⟨s, run_zero s, rfl⟩
  | succ n ih =>
    obtain ⟨t, hstep⟩ := exists_step_eq_next s
    obtain ⟨u, hrun, hu⟩ := ih t
    refine ⟨u, (run_succ n s t hstep).trans hrun, ?_⟩
    rw [hu, step_inputs hstep, List.drop_tail]

/-- Settles O20: when the events are used up the engine has its turn. -/
theorem everyOperationCompletes : Obligations.EveryOperationCompletes := by
  intro s
  obtain ⟨t, hrun, ht⟩ := exists_run_inputs s.inputs.length s
  have hempty : t.inputs = [] := by rw [ht, List.drop_length]
  refine ⟨engineTurn (takeInput [] t), ?_, engineTurn_BUSY _, engineTurn_inputs _⟩
  rw [run_add _ 1 s t hrun, run_succ 0 t _ (step_empty t hempty), run_zero]

/-! ### Transactions while an operation runs -/

/-- Two states with the same registers and the same operation in progress: they may differ in the latch
and in the bus side. -/
structure SameOperation (s t : State) : Prop where
  regs : t.toRegs = s.toRegs
  busy : t.BUSY = s.BUSY
  pending : t.PENDING = s.PENDING

theorem SameOperation.refl (s : State) : SameOperation s s := ⟨rfl, rfl, rfl⟩

theorem SameOperation.trans {s t u : State} (h : SameOperation s t) (h' : SameOperation t u) :
    SameOperation s u :=
  ⟨h'.regs.trans h.regs, h'.busy.trans h.busy, h'.pending.trans h.pending⟩

/-- A transaction leaves the operation in progress as it is: the write of a command is an `OVERRUN`, and
every other transaction changes nothing of SC32 (R111). -/
theorem sameOperation_of_step_request {s t : State} {r : BusRequest} {rest : List Input}
    (hi : s.inputs = .request r :: rest) (hbusy : s.BUSY = true) (hstep : step s = .next t) :
    SameOperation s t := by
  rcases step_cases s with
    ⟨_, hi', _⟩ | ⟨_, hi', _⟩ | ⟨w, rest, _, e⟩ | ⟨_, _, u, _, _, e, hu, _⟩
  · simp [hi] at hi'
  · simp [hi] at hi'
  · rw [e, submitCommand_busy (s := takeInput rest s) w hbusy, answerOk_next] at hstep
    cases hstep
    exact ⟨by simp, by simp, by simp⟩
  · obtain rfl : u = t := by simpa [e] using hstep
    obtain ⟨hregs, hbusy', _, _, hpending⟩ := hu
    exact ⟨hregs, hbusy', hpending⟩

theorem exists_run_requests (reqs : List BusRequest) {s : State} {rest : List Input}
    (hi : s.inputs = reqs.map Input.request ++ rest) (hbusy : s.BUSY = true) :
    ∃ t, Sys2Proof.core.run reqs.length s = .next t ∧ t.inputs = rest ∧ SameOperation s t := by
  induction reqs generalizing s with
  | nil => exact ⟨s, run_zero s, hi, SameOperation.refl s⟩
  | cons r reqs ih =>
    obtain ⟨t, hstep⟩ := exists_step_eq_next s
    have hst : SameOperation s t := sameOperation_of_step_request hi hbusy hstep
    have hti : t.inputs = reqs.map Input.request ++ rest := by rw [step_inputs hstep, hi]; rfl
    obtain ⟨u, hrun, hui, htu⟩ := ih hti (hst.busy.trans hbusy)
    exact ⟨u, (run_succ _ s t hstep).trans hrun, hui, hst.trans htu⟩

/-- Settles O21. -/
theorem runningOperationIsUnaffected : Obligations.RunningOperationIsUnaffected := by
  intro s reqs rest p hbusy hp hi
  obtain ⟨t, hrun, hti, hst⟩ := exists_run_requests reqs hi hbusy
  have htbusy : t.BUSY = true := hst.busy.trans hbusy
  have htp : t.PENDING = some p := hst.pending.trans hp
  refine ⟨⟨t, hrun, hst.regs, htbusy, htp⟩, engineTurn (takeInput rest t), ?_, ?_⟩
  · rw [run_add _ 1 s t hrun, run_succ 0 t _ (step_engine t rest hti), run_zero]
  · rw [engineTurn_pending (takeInput rest t) p htbusy htp]
    exact ⟨rfl, rfl, rfl, rfl⟩

end Sys2Proof.Machine
end

section
/-! PROOF. The error latch (10_state.md R27, 60_exceptions.md R110, R114, R123): only an event that starts a
session clears it, and while it is set no register but `RESULT` changes. -/

namespace Sys2Proof.Machine

/-! ### What a step can do while an error is latched -/

/-- With an error latched, a submission that is no `CLR` to an idle machine changes nothing, or starts an
operation that will write `RESULT` alone: a `MAP`'s or an `UNMAP`'s (R108 steps 3 to 7). -/
theorem submitCommand_latched_cases {s t : State} {w : Word} (herr : s.ERR = true)
    (hclr : ¬ (decode w = .command .clr ∧ s.BUSY = false)) (ht : submitCommand w s = .next t) :
    t = s ∨ ∃ i v, t = accept i (storeResult v s.toRegs) s := by
  rcases submitCommand_cases w s with ⟨_, _, hraise⟩ | ⟨i, hd, hexec⟩
  · obtain rfl : raise _ s = t := by simpa [hraise] using ht
    exact .inl (raise_of_latched _ s herr)
  · obtain ⟨u, hu, hcases⟩ := exec_cases i s
    obtain rfl : u = t := by simpa [hexec, hu] using ht
    rcases hcases with ⟨hsame, _⟩ | ⟨e, _, hraise⟩ | ⟨hidle, _, hi, hacc⟩
    · exact .inl hsame
    · exact .inl (hraise.trans (raise_of_latched e s herr))
    · rcases hi with rfl | ⟨c, rfl⟩ | ⟨n, rfl⟩ | hclear
      · exact absurd ⟨hd, hidle⟩ hclr
      · exact .inr ⟨_, _, hacc⟩
      · exact .inr ⟨_, _, hacc⟩
      · rw [herr] at hclear
        cases hclear

/-- With an error latched, a step that starts no session is the engine's turn, changes nothing of SC32,
or starts an operation that will write `RESULT` alone. -/
theorem step_latched_cases {s t : State} (herr : s.ERR = true) (hcont : startsSession s = false)
    (hstep : step s = .next t) :
    Untouched (engineTurn s) t ∨ Untouched s t ∨
    ∃ i v, Untouched (accept i (storeResult v s.toRegs) s) t := by
  have hnostart := mt (startsSession_iff s).2 (by simp [hcont])
  rcases step_cases s with ⟨rest, _, e⟩ | ⟨rest, hi, _⟩ | ⟨w, rest, hi, e⟩ | ⟨_, _, u, _, _, e, hu, _⟩
  · obtain rfl : engineTurn _ = t := by simpa [e] using hstep
    exact .inl (untouched_engineTurn (untouched_takeInput rest s))
  · exact absurd (.inl ⟨rest, hi⟩) hnostart
  · obtain ⟨u, hu, rfl⟩ := (answerOk_eq_next _ _).1 (e.symm.trans hstep)
    have hclr : ¬ (decode w = .command .clr ∧ s.BUSY = false) :=
      fun h => hnostart (.inr ⟨w, rest, hi, h⟩)
    rcases submitCommand_latched_cases (s := takeInput rest s) herr hclr hu with rfl | ⟨i, v, rfl⟩
    · exact .inr (.inl ⟨rfl, rfl, rfl, rfl, rfl⟩)
    · exact .inr (.inr ⟨i, v, rfl, rfl, rfl, rfl, rfl⟩)
  · obtain rfl : u = t := by simpa [e] using hstep
    exact .inr (.inl hu)

/-- An error stays latched, with its code, through every step that starts no session. -/
theorem step_keeps_latch {s t : State} (herr : s.ERR = true) (hcont : startsSession s = false)
    (hstep : step s = .next t) : t.ERR = true ∧ t.ERRCODE = s.ERRCODE := by
  rcases step_latched_cases herr hcont hstep with
    ⟨_, _, ht, hcode, _⟩ | ⟨_, _, ht, hcode, _⟩ | ⟨i, v, _, _, ht, hcode, _⟩
  · exact ⟨by rw [ht, engineTurn_ERR, herr], by rw [hcode, engineTurn_ERRCODE]⟩
  · exact ⟨ht.trans herr, hcode⟩
  · exact ⟨ht.trans herr, hcode⟩

/-- Settles O32: the two exceptions are the events that start a session. -/
theorem onlyClrAndResetClearTheLatch : Obligations.OnlyClrAndResetClearTheLatch := by
  intro s t herr hstep
  cases hs : startsSession s with
  | true => exact .inr ((startsSession_iff s).1 hs)
  | false => exact .inl (step_keeps_latch herr hs hstep)

/-! ### The frozen session -/

/-- An error is latched with the code `code`, and the registers hold `r` but for `RESULT`, now and after
the completion of the operation pending, if there is one. -/
structure Frozen (code : ErrCode) (r : Regs) (s : State) : Prop where
  err : s.ERR = true
  code : s.ERRCODE = code
  regs : s.blankResult = r
  pending : ∀ p, s.PENDING = some p → p.after.blankResult = r

section
variable {code : ErrCode} {r : Regs} {s t : State}

theorem Frozen.of_untouched (h : Frozen code r s) (hst : Untouched s t) : Frozen code r t := by
  obtain ⟨hregs, _, herr, hcode, hpending⟩ := hst
  exact ⟨herr.trans h.err, hcode.trans h.code, by rw [hregs, h.regs], hpending ▸ h.pending⟩

/-- A busy machine with nothing pending only becomes idle (log entry 8). -/
theorem engineTurn_busy_none (hbusy : s.BUSY = true) (hp : s.PENDING = none) :
    engineTurn s = { s with BUSY := false } := by
  simp [engineTurn, complete, hbusy, hp]

theorem Frozen.engineTurn (h : Frozen code r s) : Frozen code r (engineTurn s) := by
  cases hb : s.BUSY with
  | false => rwa [engineTurn_idle s hb]
  | true =>
    cases hp : s.PENDING with
    | none =>
      rw [engineTurn_busy_none hb hp]
      exact ⟨h.err, h.code, h.regs, h.pending⟩
    | some p =>
      rw [engineTurn_pending s p hb hp]
      exact ⟨h.err, h.code, h.pending p hp, by simp⟩

theorem Frozen.accept_storeResult (h : Frozen code r s) (i : Instr) (v : Word) :
    Frozen code r (accept i (storeResult v s.toRegs) s) where
  err := h.err
  code := h.code
  regs := h.regs
  pending p hp := by
    cases hp
    exact h.regs

theorem Frozen.of_step (h : Frozen code r s) (hcont : startsSession s = false)
    (hstep : step s = .next t) : Frozen code r t := by
  rcases step_latched_cases h.err hcont hstep with ht | ht | ⟨i, v, ht⟩
  · exact h.engineTurn.of_untouched ht
  · exact h.of_untouched ht
  · exact (h.accept_storeResult i v).of_untouched ht

/-- An event that can start no session, whatever state it finds: no reset edge and no write of a `CLR`. -/
def ContinuesSession (x : Input) : Prop :=
  x ≠ .reset ∧ ∀ w, x = cmdWrite w → decode w ≠ .command .clr

theorem startsSession_of_continues (h : ∀ x ∈ s.inputs, ContinuesSession x) :
    startsSession s = false := by
  refine Bool.eq_false_iff.2 fun hs => ?_
  rcases (startsSession_iff s).1 hs with ⟨rest, hi⟩ | ⟨w, rest, hi, hd, _⟩
  · exact (h .reset (by simp [hi])).1 rfl
  · exact (h (cmdWrite w) (by simp [hi])).2 w rfl hd

theorem Frozen.exists_run (n : Nat) (h : Frozen code r s) (hin : ∀ x ∈ s.inputs, ContinuesSession x) :
    ∃ t, Sys2Proof.core.run n s = .next t ∧ Frozen code r t := by
  induction n generalizing s with
  | zero => exact ⟨s, run_zero s, h⟩
  | succ n ih =>
    obtain ⟨t, hstep⟩ := exists_step_eq_next s
    have ht : Frozen code r t := h.of_step (startsSession_of_continues hin) hstep
    have htin : ∀ x ∈ t.inputs, ContinuesSession x := fun x hx =>
      hin x (List.mem_of_mem_tail (step_inputs hstep ▸ hx))
    rw [run_succ n s t hstep]
    exact ih ht htin

end

/-- Settles O33: with an error latched and nothing pending the machine is frozen, and stays so. -/
theorem errorFreezesTheSession : Obligations.ErrorFreezesTheSession := by
  intro n s herr _ hpending hin
  have hfrozen : Frozen s.ERRCODE s.blankResult s := ⟨herr, rfl, rfl, by simp [hpending]⟩
  obtain ⟨t, hrun, ht⟩ := hfrozen.exists_run n hin
  exact ⟨t, hrun, ht.err, ht.code, ht.regs⟩

end Sys2Proof.Machine
end

section
/-! PROOF. Reset, the engine's completion step and the host's conversion of characters
(70_reset_and_hazards.md R124, R125, R129, R135). -/

namespace Sys2Proof.Machine

/-- An event that is the engine's, or the want of any, gives the engine its turn (R129, log entry 1). -/
theorem step_engineTurn {s : State} {rest : List Input}
    (hi : s.inputs = .engine :: rest ∨ (s.inputs = [] ∧ rest = [])) :
    step s = .next (engineTurn (takeInput rest s)) := by
  rcases hi with hengine | ⟨hempty, rfl⟩
  · exact step_engine s rest hengine
  · exact step_empty s hempty

/-- Settles O16: the turn completes what is pending, and on an idle machine only takes the event. -/
theorem engineCompletesPendingOperation : Obligations.EngineCompletesPendingOperation := by
  intro s rest hi
  rw [step_engineTurn hi]
  refine ⟨fun p hbusy hp => ?_, fun hidle => ?_⟩
  · rw [engineTurn_pending (takeInput rest s) p hbusy hp]
    rfl
  · rw [engineTurn_idle (takeInput rest s) hidle]
    rfl

/-- After a reset edge `STATUS` reads 0, whatever ran before (R125). -/
theorem regValue_status_resetEdge (s : State) : regValue .status (resetEdge s) = 0#32 :=
  BitVec.eq_of_toNat_eq (statusWord_toNat (resetEdge s))

/-- Settles O17. -/
theorem resetEdgeRestoresEverything : Obligations.ResetEdgeRestoresEverything := by
  intro s rest hi
  exact ⟨resetEdge (takeInput rest s), step_reset s rest hi, resetEdge_toRegs _, resetEdge_BUSY _,
    resetEdge_PENDING _, resetEdge_ERR _, resetEdge_ERRCODE _, resetEdge_response _,
    resetEdge_inputs _, regValue_status_resetEdge _, rfl⟩

/-- Settles O8: a character is a symbol of the alphabet, or is given a code that is not found. -/
theorem hostConversionIsExact : Obligations.HostConversionIsExact := by
  intro c
  cases hindex : Source.indexOf c with
  | some n => exact lookup_hostCode_of_indexOf hindex
  | none => exact lookup_hostCode_of_not_symbol hindex

end Sys2Proof.Machine
end
